-- ==== Sys2Proof/Word.lean ====
section
/-! DEFINITION. The word of the register bus and the type of the numbers on the command port. -/

namespace Sys2Proof

/-- `Word` (R12): a 32-bit pattern, bits numbered from 0 at the least significant end (R11). -/
abbrev Word := BitVec 32

/-- `Value` (R12): an exact rational number; all Value arithmetic is exact (R135, decision D2; log 20). -/
abbrev Value := Rat

end Sys2Proof
end

