-- ==== Sys2Proof/Config.lean ====
section
/-! DEFINITION. The configuration record `Cfg` (R7, R20 to R25), the records the machine is made of, and the free
values: constants without a body, so that nothing can be proved of what they are. The default tables stand in
Machine/Tables.lean. -/

namespace Sys2Proof

/-- R14: the ten functions, in the order of their opcodes. -/
inductive Func where
  | cos | sin | phase | mod | atan | cosh | sinh | atanh | ln | sqrt
  deriving DecidableEq, Repr, Inhabited

/-- The two fixed-point formats (R9, R21; decision D8). -/
inductive Fmt where
  | q1_15 | q1_31
  deriving DecidableEq, Repr, Inhabited

/-- A count of argument or result words: one or two (R10, R23). -/
inductive Count where
  | one | two
  deriving DecidableEq, Repr, Inhabited

/-- The argument kinds, each with a scale table and an allowed range (R24). -/
inductive Kind where
  | unit | atan | hyp | atanh | ln | sqrt
  deriving DecidableEq, Repr, Inhabited

/-- One range `(lo, hi, e)` of a scale table (R110; conflict C10: the lower bound first). -/
structure Range where
  lo : Value
  hi : Value
  exp : Int
  deriving DecidableEq, Repr, Inhabited

/-- The two ways a scale table is given (R111): base bounds with an exponent list, or explicit bands. -/
inductive ScaleTable where
  | scaled (baseLo baseHi : Value) (exps : List Int)
  | bands (ranges : List Range)
  deriving DecidableEq, Repr, Inhabited

/-- `Cfg.TABLE[k]` and `Cfg.ALLOWED[k]` of one kind (R24). -/
structure KindSpec where
  table : ScaleTable
  allowedLo : Value
  allowedHi : Value
  deriving DecidableEq, Repr, Inhabited

/-- `Cfg.TABLE` and `Cfg.ALLOWED` (R24), a record for each kind. -/
structure KindTable where
  unit : KindSpec
  atan : KindSpec
  hyp : KindSpec
  atanh : KindSpec
  ln : KindSpec
  sqrt : KindSpec
  deriving DecidableEq, Repr, Inhabited

/-- A post-scale (R23): a number, or `Cfg.PI`. -/
inductive PostScale where
  | times (v : Value)
  | timesPi
  deriving DecidableEq, Repr, Inhabited

/-- `nargs`, `kind1`, `kind2` and `preset2` of a descriptor (R23): `kind2` and `preset2` exist only with two arguments. -/
inductive ArgSpec where
  | one (kind1 : Kind)
  | two (kind1 kind2 : Kind) (preset2 : Option Value)
  deriving DecidableEq, Repr, Inhabited

/-- `nres`, `post1` and `post2` of a descriptor (R23): `post2` exists only with two results. -/
inductive ResSpec where
  | one (post1 : PostScale)
  | two (post1 post2 : PostScale)
  deriving DecidableEq, Repr, Inhabited

/-- The function descriptor `Cfg.DESC[f]` (R23), less `code`, which is the static map of R86 (log 22). -/
structure Desc where
  args : ArgSpec
  res : ResSpec
  deriving DecidableEq, Repr, Inhabited

/-- `Cfg.DESC`: the ten descriptors (R23). -/
structure DescTable where
  cos : Desc
  sin : Desc
  phase : Desc
  mod : Desc
  atan : Desc
  cosh : Desc
  sinh : Desc
  atanh : Desc
  ln : Desc
  sqrt : Desc
  deriving DecidableEq, Repr, Inhabited

/-- How many argument and result words the engine expects of a function (R215, R241). -/
structure Arity where
  nargs : Count
  nres : Count
  deriving DecidableEq, Repr, Inhabited

/-- The engine's own expectation for each function (R215, U2; log 9). -/
structure ArityTable where
  cos : Arity
  sin : Arity
  phase : Arity
  mod : Arity
  atan : Arity
  cosh : Arity
  sinh : Arity
  atanh : Arity
  ln : Arity
  sqrt : Arity
  deriving DecidableEq, Repr, Inhabited

/-- `Cfg.CSR_WRITE_MODE` (R7, R193, decision D13). -/
inductive CsrWriteMode where
  | single | perField
  deriving DecidableEq, Repr, Inhabited

/-- The configuration record (R7, R20 to R25): fixed before the first command, changed by no step. `arities` is the
environment's side of R215 (log 9). -/
structure Cfg where
  fmt : Fmt
  precision : BitVec 4
  desc : DescTable
  kinds : KindTable
  pi : Value
  vecMargin : Value
  base : Word
  csrWriteMode : CsrWriteMode
  arities : ArityTable
  deriving DecidableEq, Repr, Inhabited

/-- A fixed-point cell (R26). `raw` is a signed W-bit integer, `scale` the hardware scale exponent 0 to 7, `soft` the
soft scale, which never reaches the bus. -/
structure Cell where
  raw : Int
  scale : BitVec 3
  soft : Value
  deriving DecidableEq, Repr, Inhabited

/-- The engine's one in-flight operation slot (R39). -/
inductive Slot where
  | empty
  | collecting
  | computing
  | ready0
  | ready1
  deriving DecidableEq, Repr, Inhabited

/-- The engine as far as the block observes it (R38 to R40): CSR bits 22:0 in force, RDY, the slot, the argument words
received, the pair of result words to hand out. -/
structure Engine where
  csr : BitVec 23
  erdy : Bool
  slot : Slot
  arg1 : Word
  arg2 : Word
  res1 : Word
  res2 : Word
  deriving DecidableEq, Repr, Inhabited

/-- The transaction latches LF, LN, LR, LS, LW1, LW2 (R30, R32). -/
structure Latches where
  lf : BitVec 4
  ln : Count
  lr : Count
  ls : BitVec 3
  lw1 : Word
  lw2 : Word
  deriving DecidableEq, Repr, Inhabited

namespace Config

/-- FREE VALUE: the content of a register the spec leaves unspecified (R1, R2 after CREATE, R181, U9; A1, A2, R1, R2
after a hardware reset, R44, U10), at a draw (log 11, 12). -/
opaque freeCell : Nat → Cell

/-- FREE VALUE: FSEL after a hardware reset (R44, U10; log 12). -/
opaque freeFunc : Nat → Func

/-- FREE VALUE: the latches after a hardware reset (R44, U10; log 12). -/
opaque freeLatches : Nat → Latches

/-- FREE VALUE: the word a read returns where the engine contract gives none (R41 item 5, U2, R236; log 7, 9, 10). -/
opaque freeWord : Nat → Word

/-- FREE VALUE: the engine where nothing is known of it (R41 items 2 and 5 outside the contract, U2, U13, U20, R236;
log 7 to 10, 12). -/
opaque freeEngine : Nat → Engine

end Config

end Sys2Proof
end

