-- ==== Sys2Proof/Machine/Tables.lean ====
section
/-! DEFINITION. Reading the configuration: the descriptor, the kind and the counts of a function, the ranges of a scale
table, the constraints a configuration must meet (`bad_config`, R112, R214), and the default tables (R23, R24). -/

namespace Sys2Proof

/-- `Cfg.DESC[f]` (R23). -/
def DescTable.of (d : DescTable) : Func → Desc
  | .cos => d.cos
  | .sin => d.sin
  | .phase => d.phase
  | .mod => d.mod
  | .atan => d.atan
  | .cosh => d.cosh
  | .sinh => d.sinh
  | .atanh => d.atanh
  | .ln => d.ln
  | .sqrt => d.sqrt

/-- The counts the engine expects of `f` (R215). -/
def ArityTable.of (t : ArityTable) : Func → Arity
  | .cos => t.cos
  | .sin => t.sin
  | .phase => t.phase
  | .mod => t.mod
  | .atan => t.atan
  | .cosh => t.cosh
  | .sinh => t.sinh
  | .atanh => t.atanh
  | .ln => t.ln
  | .sqrt => t.sqrt

/-- The table and the allowed range of kind `k` (R24). -/
def KindTable.of (t : KindTable) : Kind → KindSpec
  | .unit => t.unit
  | .atan => t.atan
  | .hyp => t.hyp
  | .atanh => t.atanh
  | .ln => t.ln
  | .sqrt => t.sqrt

/-- `nargs` of a descriptor (R23). -/
def Desc.nargs (d : Desc) : Count :=
  match d.args with
  | .one _ => .one
  | .two _ _ _ => .two

/-- `kind1` of a descriptor (R23). -/
def Desc.kind1 (d : Desc) : Kind :=
  match d.args with
  | .one k => k
  | .two k _ _ => k

/-- `nres` of a descriptor (R23). -/
def Desc.nres (d : Desc) : Count :=
  match d.res with
  | .one _ => .one
  | .two _ _ => .two

/-- The value of a post-scale: `Cfg.PI` is the value used wherever the document writes π (R25). -/
def PostScale.value (pi : Value) : PostScale → Value
  | .times v => v
  | .timesPi => pi

/-- `post1` of a descriptor (R23). -/
def Desc.post1 (d : Desc) : PostScale :=
  match d.res with
  | .one p => p
  | .two p _ => p

/-- `post2` of a descriptor (R23). Where it is absent no second result is read; the neutral multiplier then stands
here (log 29). -/
def Desc.post2 (d : Desc) : PostScale :=
  match d.res with
  | .one _ => .times 1
  | .two _ p => p

/-- How many words a count stands for (R10). -/
def Count.toNat : Count → Nat
  | .one => 1
  | .two => 2

/-- The word width W of a format (R9). -/
def Fmt.width : Fmt → Nat
  | .q1_15 => 16
  | .q1_31 => 32

/-- The number of fractional bits Fr of a format (R9). -/
def Fmt.fracBits : Fmt → Nat
  | .q1_15 => 15
  | .q1_31 => 31

/-- `2^e` for any integer `e`, exactly (R12). -/
def pow2 : Int → Value
  | .ofNat n => ((2 ^ n : Nat) : Rat)
  | .negSucc n => mkRat 1 (2 ^ (n + 1))

/-- The ranges of a scale table (R110, R111): base bounds times `2^e` for each exponent, or the bands as written. -/
def ScaleTable.ranges : ScaleTable → List Range
  | .scaled lo hi exps => exps.map fun e => ⟨lo * pow2 e, hi * pow2 e, e⟩
  | .bands rs => rs

/-- The exponents of a scale table, in list order. -/
def ScaleTable.exps : ScaleTable → List Int
  | .scaled _ _ exps => exps
  | .bands rs => rs.map Range.exp

/-- R112 item 2: strictly ascending in list order. -/
def ascending : List Int → Bool
  | [] => true
  | [_] => true
  | a :: b :: rest => decide (a < b) && ascending (b :: rest)

/-- R112 item 4, `lo ≤ hi` for every range; with base bounds this is the order of the two base bounds, since `2^e > 0`. -/
def ScaleTable.ordered : ScaleTable → Bool
  | .scaled lo hi _ => decide (lo ≤ hi)
  | .bands rs => rs.all fun r => decide (r.lo ≤ r.hi)

/-- R112 for one table, and R7 for its allowed range. -/
def KindSpec.wf (k : KindSpec) : Bool :=
  decide (k.allowedLo ≤ k.allowedHi) && (!k.table.exps.isEmpty && (ascending k.table.exps &&
    (k.table.exps.all (fun e => decide (0 ≤ e) && decide (e ≤ 7)) && k.table.ordered)))

/-- R112 and R7 for every kind. -/
def KindTable.wf (t : KindTable) : Bool :=
  t.unit.wf && (t.atan.wf && (t.hyp.wf && (t.atanh.wf && (t.ln.wf && t.sqrt.wf))))

/-- The configuration breaks no constraint of R112 or R7 and BASE is a multiple of 4 (R54, R214 `bad_config`). -/
def Cfg.wf (c : Cfg) : Bool :=
  c.base.extractLsb' 0 2 == 0 && (decide (0 < c.pi) && (decide (1 < c.vecMargin) && c.kinds.wf))

/-- The default descriptor table (R23; decisions D18, D19). -/
def DescTable.default : DescTable where
  cos := ⟨.two .unit .unit (some 1), .two (.times 1) (.times 1)⟩
  sin := ⟨.two .unit .unit (some 1), .two (.times 1) (.times 1)⟩
  phase := ⟨.two .unit .unit none, .two .timesPi (.times 1)⟩
  mod := ⟨.two .unit .unit none, .two (.times 1) .timesPi⟩
  atan := ⟨.one .atan, .one (.times 1)⟩
  cosh := ⟨.one .hyp, .one (.times 1)⟩
  sinh := ⟨.one .hyp, .one (.times 1)⟩
  atanh := ⟨.one .atanh, .one (.times 1)⟩
  ln := ⟨.one .ln, .one (.times 2)⟩
  sqrt := ⟨.one .sqrt, .one (.times 1)⟩

/-- The default scale tables and allowed ranges (R24; decisions D20, D21, D22). -/
def KindTable.default : KindTable where
  unit := ⟨.scaled (-1) 1 [0], -1, 1⟩
  atan := ⟨.scaled (-1) 1 [0, 1, 2, 3, 4, 5, 6, 7], -1, 1⟩
  hyp := ⟨.scaled (mkRat (-559) 1000) (mkRat 559 1000) [1], mkRat (-559) 1000, mkRat 559 1000⟩
  atanh := ⟨.scaled (mkRat (-403) 1000) (mkRat 403 1000) [1], mkRat (-403) 1000, mkRat 403 1000⟩
  ln := ⟨.bands [⟨mkRat 107 1000, 1, 1⟩, ⟨1, 3, 2⟩, ⟨3, 7, 3⟩, ⟨7, mkRat 935 100, 4⟩], -1, 1⟩
  sqrt := ⟨.bands [⟨mkRat 27 1000, mkRat 3 4, 0⟩, ⟨mkRat 3 4, mkRat 7 4, 1⟩, ⟨mkRat 7 4, mkRat 2341 1000, 2⟩], -1, 1⟩

/-- The counts of the default descriptor table, taken as what the engine expects (R23, R215; log 9). -/
def ArityTable.default : ArityTable where
  cos := ⟨.two, .two⟩
  sin := ⟨.two, .two⟩
  phase := ⟨.two, .two⟩
  mod := ⟨.two, .two⟩
  atan := ⟨.one, .one⟩
  cosh := ⟨.one, .one⟩
  sinh := ⟨.one, .one⟩
  atanh := ⟨.one, .one⟩
  ln := ⟨.one, .one⟩
  sqrt := ⟨.one, .one⟩

/-- The configuration of `State.reset`: the defaults of R7, R23, R24. FMT, PRECISION, PI and BASE have no default in
the spec and are the model's choice (log 2). -/
def Cfg.reset : Cfg where
  fmt := .q1_31
  precision := 6
  desc := .default
  kinds := .default
  pi := mkRat 884279719003555 281474976710656
  vecMargin := mkRat 23 20
  base := 0
  csrWriteMode := .single
  arities := .default

end Sys2Proof
end

