-- ==== Sys2Proof/Syntax.lean ====
section
/-! DEFINITION. The syntax: the ten CALC instructions of spec/opcode_table.json, the commands of the command port
(R95), its pseudo-commands (R96), and the moves of the agents outside the block (R43). -/

namespace Sys2Proof

/-- ARGSIZE or RESSIZE, the word-size bit of the control word (R81): bit 1 is 16-bit, bit 0 is 32-bit. -/
inductive WordSize where
  | bits32 | bits16
  deriving DecidableEq, Repr, Inhabited

/-- The instructions: one constructor for each row of the opcode table (R87, R97). `calcF` is the CALC executed while
FSEL = F (R95); its operands are the variable fields of its control word: ARGSIZE, RESSIZE, SCALE, PRECISION. -/
inductive Instr where
  | calcCos (argSize resSize : WordSize) (scale : BitVec 3) (precision : BitVec 4)
  | calcSin (argSize resSize : WordSize) (scale : BitVec 3) (precision : BitVec 4)
  | calcPhase (argSize resSize : WordSize) (scale : BitVec 3) (precision : BitVec 4)
  | calcMod (argSize resSize : WordSize) (scale : BitVec 3) (precision : BitVec 4)
  | calcAtan (argSize resSize : WordSize) (scale : BitVec 3) (precision : BitVec 4)
  | calcCosh (argSize resSize : WordSize) (scale : BitVec 3) (precision : BitVec 4)
  | calcSinh (argSize resSize : WordSize) (scale : BitVec 3) (precision : BitVec 4)
  | calcAtanh (argSize resSize : WordSize) (scale : BitVec 3) (precision : BitVec 4)
  | calcLn (argSize resSize : WordSize) (scale : BitVec 3) (precision : BitVec 4)
  | calcSqrt (argSize resSize : WordSize) (scale : BitVec 3) (precision : BitVec 4)
  deriving DecidableEq, Repr, Inhabited

/-- The variable fields of a control word, the operands every instruction has (R81, R84, R85). -/
structure Fields where
  argSize : WordSize
  resSize : WordSize
  scale : BitVec 3
  precision : BitVec 4
  deriving DecidableEq, Repr, Inhabited

/-- The commands of the command port (R95). CREATE carries a 4-bit function number (R92, R214; log 21). -/
inductive Command where
  | create (code : BitVec 4)
  | setArg1 (v : Value)
  | setArg2 (v : Value)
  | setArg (v : Value)
  | setVec (x y : Value)
  | calc
  | getRes
  | getRes2
  | getScale
  deriving DecidableEq, Repr, Inhabited

/-- The pseudo-commands (R96). -/
inductive PseudoCommand where
  | setAngleRad (r : Value)
  | setAngleDeg (d : Int)
  | setMod (m : Value)
  | apply1 (f : Func) (v : Value)
  | apply2 (f : Func) (a b : Value)
  deriving DecidableEq, Repr, Inhabited

/-- One move of an agent (R43; log 5): the host issues a command, sets the peripheral clock enable (R236) or resets the
block (R230); the engine finishes with two result words (R41 item 3); `access` leaves the turn to the sequencer. -/
inductive Move where
  | command (c : Command)
  | engine (e1 e2 : Word)
  | access
  | clock (on : Bool)
  | reset
  deriving DecidableEq, Repr, Inhabited

end Sys2Proof
end

