-- ==== Sys2Proof/WellFormed.lean ====
section
/-! DEFINITION. The check an instruction passes: what the block can write (R81). SCALE and PRECISION are bit vectors of
the width of their field (R84, R85), so every value of them is legal. -/

namespace Sys2Proof

/-- R81: ARGSIZE and RESSIZE take the same value in every word the block writes. -/
def Instr.wellFormed : Instr → Bool
  | .calcCos a r _ _ => a == r
  | .calcSin a r _ _ => a == r
  | .calcPhase a r _ _ => a == r
  | .calcMod a r _ _ => a == r
  | .calcAtan a r _ _ => a == r
  | .calcCosh a r _ _ => a == r
  | .calcSinh a r _ _ => a == r
  | .calcAtanh a r _ _ => a == r
  | .calcLn a r _ _ => a == r
  | .calcSqrt a r _ _ => a == r

end Sys2Proof
end

