-- ==== Sys2Proof/Decode.lean ====
section
/-! DEFINITION. The control word (format CSRW, R80): its assembly (R87), the decoder, total and rejecting by name, and
the encoder. The bits NARGS and NRES of a function's word are its descriptor's (R82), so both take the descriptor
table; with the default table they are exactly the rows of spec/opcode_table.json. -/

namespace Sys2Proof

/-- R86, R187: the static map from function to 4-bit opcode. -/
def Func.code : Func → BitVec 4
  | .cos => 0
  | .sin => 1
  | .phase => 2
  | .mod => 3
  | .atan => 4
  | .cosh => 5
  | .sinh => 6
  | .atanh => 7
  | .ln => 8
  | .sqrt => 9

/-- The function of an opcode; the codes 10 to 15 name none (R92). -/
def Func.ofCode? (c : BitVec 4) : Option Func :=
  match c.toNat with
  | 0 => some .cos
  | 1 => some .sin
  | 2 => some .phase
  | 3 => some .mod
  | 4 => some .atan
  | 5 => some .cosh
  | 6 => some .sinh
  | 7 => some .atanh
  | 8 => some .ln
  | 9 => some .sqrt
  | _ => none

/-- R81 (decision D9): 1 is 16-bit, 0 is 32-bit. -/
def WordSize.bit : WordSize → BitVec 1
  | .bits32 => 0
  | .bits16 => 1

/-- The word size a size bit stands for (R81). -/
def WordSize.ofBit (b : BitVec 1) : WordSize :=
  if b = 1 then .bits16 else .bits32

/-- `sz` of R87, R188: the word size of a format. -/
def WordSize.ofFmt : Fmt → WordSize
  | .q1_15 => .bits16
  | .q1_31 => .bits32

/-- R82 (decision D10): a count bit is count minus one. -/
def Count.bit : Count → BitVec 1
  | .one => 0
  | .two => 1

/-- The count a count bit stands for (R82). -/
def Count.ofBit (b : BitVec 1) : Count :=
  if b = 1 then .two else .one

/-- R87: the assembly of the control word. DMAWEN, DMAREN, IEN (R83) and every unnamed bit (R88, R89) are 0. -/
def csrWord (argSize resSize : WordSize) (nargs nres : Count) (scale : BitVec 3) (precision code : BitVec 4) : Word :=
  (0 : BitVec 9) ++ argSize.bit ++ resSize.bit ++ nargs.bit ++ nres.bit ++ (0 : BitVec 8) ++ scale ++ precision ++ code

/-- The function an instruction computes. -/
def Instr.func : Instr → Func
  | .calcCos _ _ _ _ => .cos
  | .calcSin _ _ _ _ => .sin
  | .calcPhase _ _ _ _ => .phase
  | .calcMod _ _ _ _ => .mod
  | .calcAtan _ _ _ _ => .atan
  | .calcCosh _ _ _ _ => .cosh
  | .calcSinh _ _ _ _ => .sinh
  | .calcAtanh _ _ _ _ => .atanh
  | .calcLn _ _ _ _ => .ln
  | .calcSqrt _ _ _ _ => .sqrt

/-- The operands of an instruction: the variable fields of its control word. -/
def Instr.fields : Instr → Fields
  | .calcCos a r s p => ⟨a, r, s, p⟩
  | .calcSin a r s p => ⟨a, r, s, p⟩
  | .calcPhase a r s p => ⟨a, r, s, p⟩
  | .calcMod a r s p => ⟨a, r, s, p⟩
  | .calcAtan a r s p => ⟨a, r, s, p⟩
  | .calcCosh a r s p => ⟨a, r, s, p⟩
  | .calcSinh a r s p => ⟨a, r, s, p⟩
  | .calcAtanh a r s p => ⟨a, r, s, p⟩
  | .calcLn a r s p => ⟨a, r, s, p⟩
  | .calcSqrt a r s p => ⟨a, r, s, p⟩

/-- The instruction of a function with given operands. -/
def Instr.make (f : Func) (x : Fields) : Instr :=
  match f with
  | .cos => .calcCos x.argSize x.resSize x.scale x.precision
  | .sin => .calcSin x.argSize x.resSize x.scale x.precision
  | .phase => .calcPhase x.argSize x.resSize x.scale x.precision
  | .mod => .calcMod x.argSize x.resSize x.scale x.precision
  | .atan => .calcAtan x.argSize x.resSize x.scale x.precision
  | .cosh => .calcCosh x.argSize x.resSize x.scale x.precision
  | .sinh => .calcSinh x.argSize x.resSize x.scale x.precision
  | .atanh => .calcAtanh x.argSize x.resSize x.scale x.precision
  | .ln => .calcLn x.argSize x.resSize x.scale x.precision
  | .sqrt => .calcSqrt x.argSize x.resSize x.scale x.precision

/-- Why a word is no control word of the block. -/
inductive DecodeError where
  /-- A bit of 30:23 or 15:11 is set (R88), or bit 31, RDY (R89). -/
  | reservedBits
  /-- DMAWEN, DMAREN or IEN is set (R83). -/
  | channelsEnabled
  /-- FUNC is 10 to 15 (R92). -/
  | unknownFunction
  /-- NARGS or NRES is not the function's (R82, R189). -/
  | wrongCounts
  deriving DecidableEq, Repr

/-- The variable fields of a word (R80). -/
def fieldsOf (w : Word) : Fields where
  argSize := .ofBit (w.extractLsb' 22 1)
  resSize := .ofBit (w.extractLsb' 21 1)
  scale := w.extractLsb' 8 3
  precision := w.extractLsb' 4 4

/-- The decoder: the instruction of a control word under the descriptor table `d` (R80, R86, R87). -/
def decode (d : DescTable) (w : Word) : Except DecodeError Instr :=
  if w.extractLsb' 23 9 ≠ 0 ∨ w.extractLsb' 11 5 ≠ 0 then .error .reservedBits
  else if w.extractLsb' 16 3 ≠ 0 then .error .channelsEnabled
  else
    match Func.ofCode? (w.extractLsb' 0 4) with
    | none => .error .unknownFunction
    | some f =>
      if Count.ofBit (w.extractLsb' 20 1) = (d.of f).nargs ∧ Count.ofBit (w.extractLsb' 19 1) = (d.of f).nres then
        .ok (.make f (fieldsOf w))
      else .error .wrongCounts

/-- The encoder: the control word of an instruction under the descriptor table `d` (R87). -/
def encode (d : DescTable) (i : Instr) : Word :=
  csrWord i.fields.argSize i.fields.resSize (d.of i.func).nargs (d.of i.func).nres i.fields.scale i.fields.precision
    i.func.code

/-- The column `mask` of the opcode table, the same for every row (R87). -/
def tableMask : Word := 0xFF9FF80F

/-- The column `match` of the opcode table (R87). -/
def tableMatch : Func → Word
  | .cos => 0x00180000
  | .sin => 0x00180001
  | .phase => 0x00180002
  | .mod => 0x00180003
  | .atan => 0x00000004
  | .cosh => 0x00000005
  | .sinh => 0x00000006
  | .atanh => 0x00000007
  | .ln => 0x00000008
  | .sqrt => 0x00000009

/-- The decoder on a row of spec/opcode_table.json: a word of `nbits` bits under the default descriptors (R87, R97).
Every encoded item is one 32-bit word, and there is no other length (R94). -/
def decodeTableWord (nbits w : Nat) : Option Instr :=
  if nbits = 32 ∧ w < 2 ^ 32 then
    match decode .default (BitVec.ofNat 32 w) with
    | .ok i => some i
    | .error _ => none
  else none

end Sys2Proof
end

