-- ==== Sys2Proof/Machine/State.lean ====
section
/-! DEFINITION. The state of the machine: the block's registers (R26 to R31), the peripheral as the block observes it
(R35 to R40), the configuration straps (R20) and the model's own fields; the reasons a step stops; the state after
reset (R44). INVENTORY.md lists every piece with its rule. -/

namespace Sys2Proof.Machine

/-- SEQ (R31): `idle`, or the next bus access of the running transaction. -/
inductive Seq where
  | idle | cfg | wr1 | wr2 | poll | rd1 | rd2
  deriving DecidableEq, Repr, Inhabited

/-- The CSR fields in the order a field-by-field write takes them (R193 `per_field`). -/
inductive CsrField where
  | func | argSize | resSize | nargs | nres | precision | scale | dmaWEn | dmaREn | ien
  deriving DecidableEq, Repr, Inhabited

/-- A cell register with its written flag (R44: a register not written since reset is unspecified). -/
structure CellReg where
  cell : Cell
  written : Bool
  deriving DecidableEq, Repr, Inhabited

/-- FSEL (R27) with its written flag (R44). -/
structure FuncReg where
  func : Func
  written : Bool
  deriving DecidableEq, Repr, Inhabited

/-- One bus access: the address and the word that crossed (R57). -/
inductive BusAccess where
  | write (addr word : Word)
  | read (addr word : Word)
  deriving DecidableEq, Repr, Inhabited

/-- What a command returns on the port: GETRES and GETRES2 a cell and its value (R199, R200), GETSCALE a scale (R201). -/
inductive Reply where
  | result (cell : Cell) (value : Value)
  | scale (e : BitVec 3)
  deriving DecidableEq, Repr, Inhabited

structure State where
  /-- The configuration straps `Cfg` (R7, R20): no step changes them (log 1). -/
  cfg : Cfg
  /-- SEQ (R31). -/
  seq : Seq
  /-- FSEL (R27). -/
  fsel : FuncReg
  /-- A1 (R28). -/
  a1 : CellReg
  /-- A2 (R28). -/
  a2 : CellReg
  /-- R1 (R29). -/
  r1 : CellReg
  /-- R2 (R29). -/
  r2 : CellReg
  /-- LF, LN, LR, LS, LW1, LW2 (R30). -/
  latch : Latches
  /-- The engine behind CSR, WDATA and RDATA (R38 to R40). -/
  engine : Engine
  /-- The peripheral clock is enabled (R236). -/
  clock : Bool
  /-- The model's own (log 16): the field a field-by-field CSR write has come to. -/
  cfgField : CsrField
  /-- The model's own (log 16): the word read for that field, not yet written back. -/
  cfgHeld : Option Word
  /-- The model's own (log 5): the moves still to come of the agents outside the block, the next one first. -/
  agenda : List Move
  /-- The model's own (log 17): what the last command that returns something returned. -/
  reply : Option Reply
  /-- The model's own (log 18): the bus accesses of the running or last transaction, newest first; no step reads it. -/
  bus : List BusAccess
  /-- The model's own (log 7): the counter the free values of `Config` are applied to. -/
  draws : Nat
  deriving DecidableEq, Repr

/-- Why the machine faults. The block raises no exception (R210), so no step faults; the bus primitive alone can. -/
inductive Fault where
  /-- `memRead` and `memWrite`, at an address that is none of the three registers: such an access is never issued
  (R57). Safe: the machine stops. -/
  | noRegister (addr : Word)
  deriving DecidableEq, Repr

/-- Why a command is refused (R213): not accepted, no state changes, no meaning. All are safe: the run stops. -/
inductive Refusal where
  /-- `exec`, for an instruction without a meaning. No arm uses it. Safe. -/
  | notModelled (mnemonic : String)
  /-- Every command, SEQ not `idle` (R180, R214). Safe. -/
  | busy
  /-- SETARG1, SETARG2, SETARG, SETVEC, CALC, GETRES2, GETSCALE: FSEL or a needed argument register has not been written
  since reset (R214). Safe. -/
  | noOperation
  /-- SETARG2, SETARG, SETVEC, GETRES2 on a function of another arity (R214). Safe. -/
  | arity
  /-- GETRES, GETRES2: the result register has not been written since reset or the last CREATE (R214). Safe. -/
  | noResult
  /-- CALC, the peripheral clock is not enabled (R214, R236). Safe. -/
  | clock
  /-- CREATE with a function number 10 to 15 (R92, R214). Safe. -/
  | badFunction
  /-- Every step, the configuration breaks a constraint of R112 or R7 (R214). Safe. -/
  | badConfig
  /-- `memRead` of WDATA, `memWrite` of RDATA: never issued (R56, U12). Safe. -/
  | accessMode
  /-- The step, when the latches of a running transaction make no control word of the block (R92): in no state that a
  run reaches. Safe. -/
  | noInstruction
  deriving DecidableEq, Repr

/-- A cell register of `State.reset`: not written, content the model's choice (R44; log 3). -/
def CellReg.reset : CellReg := ⟨⟨0, 0, 1⟩, false⟩

/-- The machine after reset (R44, R230): SEQ is `idle` and every other register is unspecified, that is not written.
The contents, the peripheral and the configuration are the model's choice (log 2, 3, 4). -/
def State.reset : State where
  cfg := .reset
  seq := .idle
  fsel := ⟨.cos, false⟩
  a1 := .reset
  a2 := .reset
  r1 := .reset
  r2 := .reset
  latch := ⟨0, .one, .one, 0, 0, 0⟩
  engine := ⟨0, false, .empty, 0, 0, 0, 0⟩
  clock := false
  cfgField := .func
  cfgHeld := none
  agenda := []
  reply := none
  bus := []
  draws := 0

end Sys2Proof.Machine
end

