-- ==== Sys2Proof/Machine/Engine.lean ====
section
/-! DEFINITION. The engine behind the three registers: the assumed contract of R41, item by item. Where an access lies
outside the contract nothing is known of the engine afterwards: a free value (log 7). -/

namespace Sys2Proof.Machine

/-- The number of argument words declared by the CSR in force (R41: `na`). -/
def engineNargs (e : Engine) : Count := Count.ofBit (e.csr.extractLsb' 20 1)

/-- The number of result words declared by the CSR in force (R41: `nr`). -/
def engineNres (e : Engine) : Count := Count.ofBit (e.csr.extractLsb' 19 1)

/-- R215, R241: the counts declared are those the engine expects of the function in FUNC (log 9). DESIGN CHOICE: R92 does not
say what the engine does while FUNC is 10 to 15, so no counts match then (log 9). -/
def countsMatch (c : Cfg) (e : Engine) : Bool :=
  match Func.ofCode? (e.csr.extractLsb' 0 4) with
  | some f => c.arities.of f == ⟨engineNargs e, engineNres e⟩
  | none => false

/-- R41 item 1: a CSR write replaces bits 22:0 and changes neither ERDY nor ESLOT; bit 31 is ignored (R89). -/
def engineWriteCsr (w : Word) (e : Engine) : Engine := { e with csr := w.extractLsb' 0 23 }

/-- R41 item 4: a CSR read returns ERDY in bit 31, the bits in force in 22:16 and 10:0, 0 elsewhere, and changes
nothing (R60). DESIGN CHOICE: U6 allows any value in the reserved bits (log 26). -/
def engineReadCsr (e : Engine) : Word :=
  (if e.erdy then 0x80000000 else 0) ||| (e.csr.setWidth 32 &&& 0x007F07FF)

/-- R41 item 2: a WDATA write hands over an argument word; the last declared one starts the calculation. While the
engine computes, a write is outside the contract. -/
def engineWriteData (n : Nat) (w : Word) (e : Engine) : Engine :=
  match e.slot with
  | .empty | .ready0 | .ready1 =>
    match engineNargs e with
    | .one => { e with erdy := false, slot := .computing, arg1 := w }
    | .two => { e with erdy := false, slot := .collecting, arg1 := w }
  | .collecting => { e with slot := .computing, arg2 := w }
  | .computing => Config.freeEngine n

/-- R41 item 3, R40: the engine's own step, with the result words it chooses. Nothing else sets ERDY, so in any other
slot state there is no such step. -/
def engineFinish (e1 e2 : Word) (e : Engine) : Engine :=
  match e.slot with
  | .computing => { e with erdy := true, slot := .ready0, res1 := e1, res2 := e2 }
  | .empty | .collecting | .ready0 | .ready1 => e

/-- R41 item 5: an RDATA read takes a result word; the last declared one empties the slot and clears ERDY. In any other
slot state, and where the counts are not those the engine expects (U2), any word is returned and nothing is known of
the engine afterwards. -/
def engineReadData (c : Cfg) (n : Nat) (e : Engine) : Word × Engine :=
  if countsMatch c e then
    match e.slot with
    | .ready0 =>
      match engineNres e with
      | .one => (e.res1, { e with erdy := false, slot := .empty })
      | .two => (e.res1, { e with slot := .ready1 })
    | .ready1 => (e.res2, { e with erdy := false, slot := .empty })
    | .empty | .collecting | .computing => (Config.freeWord n, Config.freeEngine n)
  else (Config.freeWord n, Config.freeEngine n)

/-- R239: the engine is idle, RDY = 0. -/
def engineIdle (e : Engine) : Bool := !e.erdy && e.slot == .empty

/-- R239, U13: RDY must be 0 and the engine idle when a CALC is accepted; if it is not, nothing is known of it
(log 8). -/
def engineAtAcceptance (n : Nat) (e : Engine) : Engine := if engineIdle e then e else Config.freeEngine n

/-- R44: the engine after a hardware reset is unspecified, but that its slot is empty when RDY = 0 and no WDATA write is
outstanding (log 12). -/
def engineAfterReset (n : Nat) (e : Engine) : Engine :=
  let u := Config.freeEngine n
  match e.slot with
  | .collecting | .computing => u
  | .empty | .ready0 | .ready1 => if u.erdy then u else { u with slot := .empty }

end Sys2Proof.Machine
end

