-- ==== Sys2Proof/Machine/Flags.lean ====
section
/-! DEFINITION. The flag computations. The only flag is RDY, bit 31 of CSR (R34): it is the engine's, it is read in
step 8 alone, and no instruction writes a flag. -/

namespace Sys2Proof.Machine

/-- RDY in a word read from CSR (R35, R195): bit 31, and no other bit is looked at. -/
def rdy (r : Word) : Bool := r.getLsbD 31

end Sys2Proof.Machine
end

