-- ==== Sys2Proof/Machine/Operands.lean ====
section
/-! DEFINITION. The operand forms: scale lookup (R113 to R115), rounding and saturation (R116, R118), the encoder
(R117), the decoder (R119, R120), the bus words (R121, R122) and the argument conditioners (R124 to R130). -/

namespace Sys2Proof.Machine

/-- R113: a range contains `v` when `lo ≤ v < hi` (decision D6). -/
def rangeContains (r : Range) (v : Value) : Bool := decide (r.lo ≤ v) && decide (v < r.hi)

/-- R114: the first index whose range contains `v`, else the last index. -/
def findSmallestScaleIndex (t : List Range) (v : Value) : Nat :=
  (t.findIdx? fun r => rangeContains r v).getD (t.length - 1)

/-- The range at an index. A legal table is not empty (R112) and every index of R114 lies inside it (log 29). -/
def rangeAt (t : List Range) (i : Nat) : Range := t.getD i ⟨0, 0, 0⟩

/-- R115: the range of exponent `e`, else the last range (decision D23). -/
def rangeForScale (t : List Range) (e : Int) : Range :=
  (t.find? fun r => r.exp == e).getD (rangeAt t (t.length - 1))

/-- R13: `clamp(x, lo, hi)`. -/
def clamp (x lo hi : Value) : Value := if x < lo then lo else if hi < x then hi else x

/-- R116: the nearest integer, a tie away from zero: `sign(q) · floor(|q| + 1/2)`. -/
def rnd (q : Value) : Int := if q < 0 then -(-q + 1 / 2).floor else (q + 1 / 2).floor

/-- The smallest raw of a format, −2^(W−1) (R26). -/
def rawMin (f : Fmt) : Int := -(2 ^ (f.width - 1))

/-- The largest raw of a format, 2^(W−1) − 1 (R26). -/
def rawMax (f : Fmt) : Int := 2 ^ (f.width - 1) - 1

/-- R13, R118: saturation to W signed bits. -/
def satW (f : Fmt) (n : Int) : Int := if n < rawMin f then rawMin f else if rawMax f < n then rawMax f else n

/-- R117: a value as a cell of kind `k`. -/
def encodeValue (c : Cfg) (k : Kind) (v : Value) : Cell :=
  let t := (c.kinds.of k).table.ranges
  let e := (rangeAt t (findSmallestScaleIndex t v)).exp
  let scaled := v * pow2 (-e)
  let x := clamp scaled (c.kinds.of k).allowedLo (c.kinds.of k).allowedHi
  ⟨satW c.fmt (rnd (x * pow2 c.fmt.fracBits)), BitVec.ofInt 3 e, 1⟩

/-- R120: the fixed-point value, with the hardware scale and without the soft scale. -/
def fx (f : Fmt) (c : Cell) : Value := c.raw * pow2 (-f.fracBits) * pow2 c.scale.toNat

/-- R26, R120: the value a cell represents. -/
def value (f : Fmt) (c : Cell) : Value := fx f c * c.soft

/-- R136: what one unit of `raw` is worth in `fx`. -/
def quantum (f : Fmt) (c : Cell) : Value := pow2 (c.scale.toNat - f.fracBits)

/-- R121, R90: the bus word of a raw, its two's-complement pattern in 32 bits. -/
def rawToWord (raw : Int) : Word := BitVec.ofInt 32 raw

/-- R122, R91: the raw of a bus word; in Q1_15 the high half is ignored. -/
def wordToRaw (f : Fmt) (w : Word) : Int :=
  match f with
  | .q1_15 => (w.extractLsb' 0 16).toInt
  | .q1_31 => w.toInt

/-- R119: a cell from a bus word, an explicit scale and a soft scale. -/
def cellFromWord (f : Fmt) (w : Word) (e : BitVec 3) (s : Value) : Cell := ⟨wordToRaw f w, e, s⟩

/-- The literal zero cell of CREATE (R181, decision D32). -/
def zeroCell : Cell := ⟨0, 0, 1⟩

/-- R124: an angle from radians, in half-turns. -/
def angleFromRadians (c : Cfg) (r : Value) : Cell := encodeValue c .unit (r / c.pi)

/-- R125: an angle from integer degrees. -/
def angleFromDegrees (c : Cfg) (d : Int) : Cell := encodeValue c .unit (d / 180)

/-- R126: an angle back to radians. -/
def radians (c : Cfg) (x : Cell) : Value := value c.fmt x * c.pi

/-- R130: a modulus. -/
def modulus (c : Cfg) (m : Value) : Cell := encodeValue c .unit m

/-- R128: the divisor of a vector that is normalised. -/
def vecDivisor (c : Cfg) (x y : Value) : Value := max |x| |y| * c.vecMargin

/-- R128: two values as a pair of cells, normalised when a magnitude is 1 or more. -/
def vec2 (c : Cfg) (k : Kind) (x y : Value) : Cell × Cell :=
  if 1 ≤ |x| ∨ 1 ≤ |y| then
    let d := vecDivisor c x y
    ({ encodeValue c k (x / d) with soft := d }, { encodeValue c k (y / d) with soft := d })
  else (encodeValue c k x, encodeValue c k y)

end Sys2Proof.Machine
end

