-- ==== Sys2Proof/Machine/Ops.lean ====
section
/-! DEFINITION. The named operations over the register bus and the registers: the bus primitives (R57) and the nine
steps of a CALC (R186 to R196), said once and shared by the ten instructions. There is no operation that takes an
exception and none that returns from one: the block raises none (R210), nothing is saved, no vector or handler exists
(R220); what it has instead is the refusal (R213), an outcome without a next state. -/

namespace Sys2Proof.Machine

/-- One outcome after another: a fault or a refusal ends it. -/
def andThen {α β : Type} (o : Host.Outcome α Fault Refusal) (k : α → Host.Outcome β Fault Refusal) :
    Host.Outcome β Fault Refusal :=
  match o with
  | .next a => k a
  | .fault r => .fault r
  | .refused r => .refused r

/-- The address of CSR (R51). -/
def csrAddr (c : Cfg) : Word := c.base

/-- The address of WDATA (R51). DESIGN CHOICE: past 32 bits it wraps modulo 2^32 (log 31). -/
def wdataAddr (c : Cfg) : Word := c.base + 4

/-- The address of RDATA (R51). DESIGN CHOICE: past 32 bits it wraps modulo 2^32 (log 31). -/
def rdataAddr (c : Cfg) : Word := c.base + 8

/-- The state after a bus access `x` that leaves the engine at `e`. -/
def accessed (s : State) (e : Engine) (x : BusAccess) : State :=
  { s with engine := e, bus := x :: s.bus, draws := s.draws + 1 }

/-- The engine after a write whose effect under the contract is `e`. While the peripheral is unclocked nothing is known of
what it does (R236; log 10). -/
def clockedEngine (s : State) (e : Engine) : Engine := if s.clock then e else Config.freeEngine s.draws

/-- The word a read presents, and the engine after it, where the contract gives `x` (R236; log 10). -/
def clockedRead (s : State) (x : Word × Engine) : Word × Engine :=
  if s.clock then x else (Config.freeWord s.draws, Config.freeEngine s.draws)

/-- `MemWrite(a, 4, w)` (R57): delivers the word to the register at `a`. A write of RDATA breaks its access mode (R56,
U12). -/
def memWrite (a w : Word) (s : State) : Host.Outcome State Fault Refusal :=
  if a = csrAddr s.cfg then .next (accessed s (clockedEngine s (engineWriteCsr w s.engine)) (.write a w))
  else if a = wdataAddr s.cfg then
    .next (accessed s (clockedEngine s (engineWriteData s.draws w s.engine)) (.write a w))
  else if a = rdataAddr s.cfg then .refused .accessMode
  else .fault (.noRegister a)

/-- `MemRead(a, 4)` (R57): the word the register at `a` presents, with the read's side effect (R59, R60). A read of WDATA
breaks its access mode (R56, U12). -/
def memRead (a : Word) (s : State) : Host.Outcome (Word × State) Fault Refusal :=
  let done (x : Word × Engine) : Host.Outcome (Word × State) Fault Refusal :=
    .next (x.1, accessed s x.2 (.read a x.1))
  if a = csrAddr s.cfg then done (clockedRead s (engineReadCsr s.engine, s.engine))
  else if a = wdataAddr s.cfg then .refused .accessMode
  else if a = rdataAddr s.cfg then done (clockedRead s (engineReadData s.cfg s.draws s.engine))
  else .fault (.noRegister a)

/-- R186, R30: CALC of function `f` (= FSEL) is accepted: the latches are loaded and SEQ leaves `idle`. Nothing is put on
the bus. The log of bus accesses starts anew (log 18). -/
def acceptCalc (f : Func) (s : State) : Host.Outcome State Fault Refusal :=
  let d := s.cfg.desc.of f
  if s.fsel.written && s.a1.written && (d.nargs == .one || s.a2.written) then
    if s.clock then
      .next { s with
        seq := .cfg
        latch := ⟨f.code, d.nargs, d.nres, s.a1.cell.scale, rawToWord s.a1.cell.raw, rawToWord s.a2.cell.raw⟩
        engine := engineAtAcceptance s.draws s.engine
        cfgField := .func
        cfgHeld := none
        bus := []
        draws := s.draws + 1 }
    else .refused .clock
  else .refused .noOperation

/-- The mask of a CSR field (R80). -/
def CsrField.mask : CsrField → Word
  | .func => 0x0000000F
  | .argSize => 0x00400000
  | .resSize => 0x00200000
  | .nargs => 0x00100000
  | .nres => 0x00080000
  | .precision => 0x000000F0
  | .scale => 0x00000700
  | .dmaWEn => 0x00040000
  | .dmaREn => 0x00020000
  | .ien => 0x00010000

/-- The field after a field in the order of R193. -/
def CsrField.after : CsrField → Option CsrField
  | .func => some .argSize
  | .argSize => some .resSize
  | .resSize => some .nargs
  | .nargs => some .nres
  | .nres => some .precision
  | .precision => some .scale
  | .scale => some .dmaWEn
  | .dmaWEn => some .dmaREn
  | .dmaREn => some .ien
  | .ien => none

/-- The word a field-by-field write puts back (R193): `((r & 0x007F07FF) & ~m) | (w & m)`. -/
def fieldUpdate (x : CsrField) (r w : Word) : Word := ((r &&& 0x007F07FF) &&& ~~~x.mask) ||| (w &&& x.mask)

/-- Steps 1 to 6 (R187 to R193): the control word `w` reaches CSR, by one write, or field by field, a read and a write for
each field, one access a step (log 16). -/
def writeControl (w : Word) (s : State) : Host.Outcome State Fault Refusal :=
  match s.cfg.csrWriteMode with
  | .single => andThen (memWrite (csrAddr s.cfg) w s) fun t => .next { t with seq := .wr1 }
  | .perField =>
    match s.cfgHeld with
    | none => andThen (memRead (csrAddr s.cfg) s) fun x => .next { x.2 with cfgHeld := some x.1 }
    | some r =>
      andThen (memWrite (csrAddr s.cfg) (fieldUpdate s.cfgField r w) s) fun t =>
        match s.cfgField.after with
        | some g => .next { t with cfgHeld := none, cfgField := g }
        | none => .next { t with cfgHeld := none, cfgField := .func, seq := .wr1 }

/-- Where SEQ goes after the first argument word (R194, R202). -/
def afterArg1 : Count → Seq
  | .one => .poll
  | .two => .wr2

/-- Where SEQ goes after the first result word (R196, R202). -/
def afterResult1 : Count → Seq
  | .one => .idle
  | .two => .rd2

/-- Step 7, argument 1 (R194). -/
def writeArg1 (s : State) : Host.Outcome State Fault Refusal :=
  andThen (memWrite (wdataAddr s.cfg) s.latch.lw1 s) fun t =>
    .next { t with seq := afterArg1 s.latch.ln }

/-- Step 7, argument 2 (R194). -/
def writeArg2 (s : State) : Host.Outcome State Fault Refusal :=
  andThen (memWrite (wdataAddr s.cfg) s.latch.lw2 s) fun t => .next { t with seq := .poll }

/-- Step 8 (R195): one CSR read; only bit 31 decides. -/
def pollReady (s : State) : Host.Outcome State Fault Refusal :=
  andThen (memRead (csrAddr s.cfg) s) fun x => .next { x.2 with seq := if rdy x.1 then .rd1 else .poll }

/-- Step 9, the primary result (R196). -/
def readResult1 (f : Func) (s : State) : Host.Outcome State Fault Refusal :=
  andThen (memRead (rdataAddr s.cfg) s) fun x =>
    .next { x.2 with
      r1 := ⟨cellFromWord s.cfg.fmt x.1 s.latch.ls ((s.cfg.desc.of f).post1.value s.cfg.pi), true⟩
      seq := afterResult1 s.latch.lr }

/-- Step 9, the secondary result (R196). -/
def readResult2 (f : Func) (s : State) : Host.Outcome State Fault Refusal :=
  andThen (memRead (rdataAddr s.cfg) s) fun x =>
    .next { x.2 with
      r2 := ⟨cellFromWord s.cfg.fmt x.1 s.latch.ls ((s.cfg.desc.of f).post2.value s.cfg.pi), true⟩
      seq := .idle }

/-- CALC.f with the control-word fields `x`: the step of its transaction that SEQ names (R31, R186 to R197; log 13). -/
def runCalc (f : Func) (x : Fields) (s : State) : Host.Outcome State Fault Refusal :=
  match s.seq with
  | .idle => acceptCalc f s
  | .cfg => writeControl (csrWord x.argSize x.resSize s.latch.ln s.latch.lr x.scale x.precision f.code) s
  | .wr1 => writeArg1 s
  | .wr2 => writeArg2 s
  | .poll => pollReady s
  | .rd1 => readResult1 f s
  | .rd2 => readResult2 f s

/-- R230, R44: the hardware reset event. SEQ becomes `idle`, every register unwritten with an unspecified content, the
peripheral unspecified (log 12). -/
def hardwareReset (s : State) : State :=
  { s with
    seq := .idle
    fsel := ⟨Config.freeFunc s.draws, false⟩
    a1 := ⟨Config.freeCell s.draws, false⟩
    a2 := ⟨Config.freeCell (s.draws + 1), false⟩
    r1 := ⟨Config.freeCell (s.draws + 2), false⟩
    r2 := ⟨Config.freeCell (s.draws + 3), false⟩
    latch := Config.freeLatches s.draws
    engine := engineAfterReset s.draws s.engine
    cfgField := .func
    cfgHeld := none
    bus := []
    draws := s.draws + 4 }

/-- R41 item 3: the engine's move, with its result words. DESIGN CHOICE: R236 does not say what an unclocked engine does,
so while the clock is off nothing is known of it after its move (log 10). -/
def engineMove (e1 e2 : Word) (s : State) : State :=
  if s.clock then { s with engine := engineFinish e1 e2 s.engine }
  else { s with engine := Config.freeEngine s.draws, draws := s.draws + 1 }

/-- R236: the host sets the clock enable. An unclocked peripheral is not described: nothing is known of it (log 10). -/
def setClock (on : Bool) (s : State) : State :=
  if on then { s with clock := true }
  else { s with clock := false, engine := Config.freeEngine s.draws, draws := s.draws + 1 }

end Sys2Proof.Machine
end

