-- ==== Sys2Proof/Machine/Circular.lean ====
section
/-! DEFINITION. CALC of the circular functions, 41_circular_ops.md (R150 to R156): each is the shared transaction of R186 to R198 with the
function's own descriptor. -/

namespace Sys2Proof.Machine

/-- CALC.COS (R151). -/
def execCalcCos (argSize resSize : WordSize) (scale : BitVec 3) (precision : BitVec 4) (s : State) :
    Host.Outcome State Fault Refusal :=
  runCalc .cos ⟨argSize, resSize, scale, precision⟩ s

/-- CALC.SIN (R152). -/
def execCalcSin (argSize resSize : WordSize) (scale : BitVec 3) (precision : BitVec 4) (s : State) :
    Host.Outcome State Fault Refusal :=
  runCalc .sin ⟨argSize, resSize, scale, precision⟩ s

/-- CALC.PHASE (R153). -/
def execCalcPhase (argSize resSize : WordSize) (scale : BitVec 3) (precision : BitVec 4) (s : State) :
    Host.Outcome State Fault Refusal :=
  runCalc .phase ⟨argSize, resSize, scale, precision⟩ s

/-- CALC.MOD (R154). -/
def execCalcMod (argSize resSize : WordSize) (scale : BitVec 3) (precision : BitVec 4) (s : State) :
    Host.Outcome State Fault Refusal :=
  runCalc .mod ⟨argSize, resSize, scale, precision⟩ s

/-- CALC.ATAN (R155). -/
def execCalcAtan (argSize resSize : WordSize) (scale : BitVec 3) (precision : BitVec 4) (s : State) :
    Host.Outcome State Fault Refusal :=
  runCalc .atan ⟨argSize, resSize, scale, precision⟩ s

end Sys2Proof.Machine
end

