-- ==== Sys2Proof/Machine/Hyperbolic.lean ====
section
/-! DEFINITION. CALC of the hyperbolic functions, 42_hyperbolic_ops.md (R160 to R163): each is the shared transaction of R186 to R198 with the
function's own descriptor. -/

namespace Sys2Proof.Machine

/-- CALC.COSH (R161). -/
def execCalcCosh (argSize resSize : WordSize) (scale : BitVec 3) (precision : BitVec 4) (s : State) :
    Host.Outcome State Fault Refusal :=
  runCalc .cosh ⟨argSize, resSize, scale, precision⟩ s

/-- CALC.SINH (R162). -/
def execCalcSinh (argSize resSize : WordSize) (scale : BitVec 3) (precision : BitVec 4) (s : State) :
    Host.Outcome State Fault Refusal :=
  runCalc .sinh ⟨argSize, resSize, scale, precision⟩ s

/-- CALC.ATANH (R163). -/
def execCalcAtanh (argSize resSize : WordSize) (scale : BitVec 3) (precision : BitVec 4) (s : State) :
    Host.Outcome State Fault Refusal :=
  runCalc .atanh ⟨argSize, resSize, scale, precision⟩ s

end Sys2Proof.Machine
end

