-- ==== Sys2Proof/Machine/LogSqrt.lean ====
section
/-! DEFINITION. CALC of natural logarithm and square root, 43_log_sqrt_ops.md (R170 to R172): each is the shared transaction of R186 to R198 with the
function's own descriptor. -/

namespace Sys2Proof.Machine

/-- CALC.LN (R171). -/
def execCalcLn (argSize resSize : WordSize) (scale : BitVec 3) (precision : BitVec 4) (s : State) :
    Host.Outcome State Fault Refusal :=
  runCalc .ln ⟨argSize, resSize, scale, precision⟩ s

/-- CALC.SQRT (R172). -/
def execCalcSqrt (argSize resSize : WordSize) (scale : BitVec 3) (precision : BitVec 4) (s : State) :
    Host.Outcome State Fault Refusal :=
  runCalc .sqrt ⟨argSize, resSize, scale, precision⟩ s

end Sys2Proof.Machine
end

