-- ==== Sys2Proof/Machine/Dispatch.lean ====
section
/-! DEFINITION. The dispatch of an instruction to its meaning, one arm for each constructor of Instr. -/

namespace Sys2Proof.Machine

def exec (i : Instr) (s : State) : Host.Outcome State Fault Refusal :=
  match i with
  | .calcCos a r sc p => Sys2Proof.Machine.execCalcCos a r sc p s
  | .calcSin a r sc p => Sys2Proof.Machine.execCalcSin a r sc p s
  | .calcPhase a r sc p => Sys2Proof.Machine.execCalcPhase a r sc p s
  | .calcMod a r sc p => Sys2Proof.Machine.execCalcMod a r sc p s
  | .calcAtan a r sc p => Sys2Proof.Machine.execCalcAtan a r sc p s
  | .calcCosh a r sc p => Sys2Proof.Machine.execCalcCosh a r sc p s
  | .calcSinh a r sc p => Sys2Proof.Machine.execCalcSinh a r sc p s
  | .calcAtanh a r sc p => Sys2Proof.Machine.execCalcAtanh a r sc p s
  | .calcLn a r sc p => Sys2Proof.Machine.execCalcLn a r sc p s
  | .calcSqrt a r sc p => Sys2Proof.Machine.execCalcSqrt a r sc p s

end Sys2Proof.Machine
end

