-- ==== Sys2Proof/Machine/Commands.lean ====
section
/-! DEFINITION. The operand commands (R181 to R185), the result commands (R199 to R201) and the expansions of the
pseudo-commands (R96). Each checks its conditions in the order of R219. -/

namespace Sys2Proof.Machine

/-- R180: a command is accepted only when SEQ is `idle`. -/
def whenIdle (s : State) (k : Host.Outcome State Fault Refusal) : Host.Outcome State Fault Refusal :=
  if s.seq = .idle then k else .refused .busy

/-- R214 `no_operation`: FSEL has been written. -/
def whenCreated (s : State) (k : Host.Outcome State Fault Refusal) : Host.Outcome State Fault Refusal :=
  if s.fsel.written then k else .refused .noOperation

/-- The descriptor of the selected function, `DESC[FSEL]` (R23, R27). -/
def selected (s : State) : Desc := s.cfg.desc.of s.fsel.func

/-- Argument 2 of a newly created operation (R181): its preset, encoded, or the zero cell. -/
def presetArg2 (c : Cfg) (f : Func) : Cell :=
  match (c.desc.of f).args with
  | .one _ => zeroCell
  | .two _ _ none => zeroCell
  | .two _ k2 (some v) => encodeValue c k2 v

/-- `CREATE f` (R181, R231). R1 and R2 become unspecified (log 11). -/
def createOp (code : BitVec 4) (s : State) : Host.Outcome State Fault Refusal :=
  whenIdle s <|
    match Func.ofCode? code with
    | none => .refused .badFunction
    | some f =>
      .next { s with
        fsel := ⟨f, true⟩
        a1 := ⟨zeroCell, true⟩
        a2 := ⟨presetArg2 s.cfg f, true⟩
        r1 := ⟨Config.freeCell s.draws, false⟩
        r2 := ⟨Config.freeCell (s.draws + 1), false⟩
        draws := s.draws + 2 }

/-- `SETARG1 v` (R182). -/
def setArg1Op (v : Value) (s : State) : Host.Outcome State Fault Refusal :=
  whenIdle s <| whenCreated s <| .next { s with a1 := ⟨encodeValue s.cfg (selected s).kind1 v, true⟩ }

/-- `SETARG2 v` (R183). -/
def setArg2Op (v : Value) (s : State) : Host.Outcome State Fault Refusal :=
  whenIdle s <| whenCreated s <|
    match (selected s).args with
    | .one _ => .refused .arity
    | .two _ k2 _ => .next { s with a2 := ⟨encodeValue s.cfg k2 v, true⟩ }

/-- `SETARG v` (R184). -/
def setArgOp (v : Value) (s : State) : Host.Outcome State Fault Refusal :=
  whenIdle s <| whenCreated s <|
    match (selected s).args with
    | .one k1 => .next { s with a1 := ⟨encodeValue s.cfg k1 v, true⟩ }
    | .two _ _ _ => .refused .arity

/-- R185: the functions that take a vector. -/
def takesVector : Func → Bool
  | .phase | .mod => true
  | .cos | .sin | .atan | .cosh | .sinh | .atanh | .ln | .sqrt => false

/-- `SETVEC x, y` (R185). -/
def setVecOp (x y : Value) (s : State) : Host.Outcome State Fault Refusal :=
  whenIdle s <| whenCreated s <|
    if takesVector s.fsel.func then
      .next { s with
        a1 := ⟨(vec2 s.cfg (selected s).kind1 x y).1, true⟩
        a2 := ⟨(vec2 s.cfg (selected s).kind1 x y).2, true⟩ }
    else .refused .arity

/-- `GETRES` (R199): the cell R1 and its value are returned on the port (log 17). -/
def getResOp (s : State) : Host.Outcome State Fault Refusal :=
  whenIdle s <|
    if s.r1.written then .next { s with reply := some (.result s.r1.cell (value s.cfg.fmt s.r1.cell)) }
    else .refused .noResult

/-- `GETRES2` (R200). -/
def getRes2Op (s : State) : Host.Outcome State Fault Refusal :=
  whenIdle s <| whenCreated s <|
    match (selected s).nres with
    | .one => .refused .arity
    | .two =>
      if s.r2.written then .next { s with reply := some (.result s.r2.cell (value s.cfg.fmt s.r2.cell)) }
      else .refused .noResult

/-- `GETSCALE` (R201). -/
def getScaleOp (s : State) : Host.Outcome State Fault Refusal :=
  whenIdle s <|
    if s.a1.written then .next { s with reply := some (.scale s.a1.cell.scale) } else .refused .noOperation

/-- R96: the expansion of a pseudo-command. A one-argument function and a two-argument function differ in their setters. -/
def expand (c : Cfg) : PseudoCommand → List Command
  | .setAngleRad r => [.setArg1 (r / c.pi)]
  | .setAngleDeg d => [.setArg1 (d / 180)]
  | .setMod m => [.setArg2 m]
  | .apply1 f v => [.create f.code, .setArg v, .calc, .getRes]
  | .apply2 f a b => [.create f.code, .setArg1 a, .setArg2 b, .calc, .getRes, .getRes2]

end Sys2Proof.Machine
end

