-- ==== Sys2Proof/Machine/Fetch.lean ====
section
/-! DEFINITION. What the machine does next (R43; log 5): the head of the agenda, or, where the agenda is empty, the
sequencer's own access; and the fetch of an instruction, which on this hardware is the assembly of a control word
(R87, R187 to R192; log 14). -/

namespace Sys2Proof.Machine

/-- The control word of the CALC the block could accept: from FSEL's descriptor, A1.scale and `Cfg` (R187 to R192). -/
def selectedWord (s : State) : Word :=
  csrWord (.ofFmt s.cfg.fmt) (.ofFmt s.cfg.fmt) (selected s).nargs (selected s).nres s.a1.cell.scale s.cfg.precision
    s.fsel.func.code

/-- The control word of the running transaction: from the latches and `Cfg` (R30, R193). -/
def latchedWord (s : State) : Word :=
  csrWord (.ofFmt s.cfg.fmt) (.ofFmt s.cfg.fmt) s.latch.ln s.latch.lr s.latch.ls s.cfg.precision s.latch.lf

/-- The control word the block stands before. -/
def controlWord (s : State) : Word := if s.seq = .idle then selectedWord s else latchedWord s

/-- The instruction the block stands before. -/
def fetch (s : State) : Except DecodeError Instr := decode s.cfg.desc (controlWord s)

/-- The head of the agenda is taken. -/
def takeMove (s : State) : State := { s with agenda := s.agenda.tail }

/-- What one step does. -/
inductive Action where
  /-- The step is refused. -/
  | refuse (r : Refusal)
  /-- The instruction runs: CALC is accepted, or its transaction goes on by one bus access. -/
  | run (i : Instr)
  /-- A command other than CALC. -/
  | command (c : Command)
  /-- The engine's own step. -/
  | engine (e1 e2 : Word)
  /-- The clock enable is set. -/
  | clock (on : Bool)
  /-- A hardware reset. -/
  | reset
  /-- Nothing is to be done: the block waits in `idle` (R233). -/
  | wait
  deriving DecidableEq, Repr

/-- The instruction fetched is run. -/
def runFetched (s : State) : Action :=
  match fetch s with
  | .ok i => .run i
  | .error _ => .refuse .noInstruction

/-- The sequencer's turn: the next bus access of the running transaction, if one runs (R31, R233). -/
def sequencerTurn (s : State) : Action := if s.seq = .idle then .wait else runFetched s

/-- What the machine does next. A configuration that breaks a constraint is refused before anything (R214). CALC while
a transaction runs is refused as busy (R180). -/
def nextAction (s : State) : Action :=
  if s.cfg.wf then
    match s.agenda with
    | [] => sequencerTurn s
    | .access :: _ => sequencerTurn s
    | .command .calc :: _ => if s.seq = .idle then runFetched s else .refuse .busy
    | .command c :: _ => .command c
    | .engine e1 e2 :: _ => .engine e1 e2
    | .clock on :: _ => .clock on
    | .reset :: _ => .reset
  else .refuse .badConfig

/-- A command other than CALC (R95). CALC is an instruction and does not come here: with CALC this is the busy test of
R180 alone. -/
def execCommand (c : Command) (s : State) : Host.Outcome State Fault Refusal :=
  match c with
  | .create code => createOp code s
  | .setArg1 v => setArg1Op v s
  | .setArg2 v => setArg2Op v s
  | .setArg v => setArgOp v s
  | .setVec x y => setVecOp x y s
  | .calc => .refused .busy
  | .getRes => getResOp s
  | .getRes2 => getRes2Op s
  | .getScale => getScaleOp s

/-- The configuration under which the control word of a table row is the one the block writes: the default descriptors,
and FMT and PRECISION as the word has them. A configuration that no block has is replaced (log 14). -/
def fetchCfg (c : Cfg) (i : Instr) : Cfg :=
  { (if c.wf then c else Cfg.reset) with
    fmt := match i.fields.argSize with | .bits16 => .q1_15 | .bits32 => .q1_31
    precision := i.fields.precision
    desc := .default }

/-- The state whose next step fetches and runs `i`: FSEL, A1.scale and `Cfg` as its control word has them, the argument
registers written, the clock enabled, SEQ `idle` and CALC on the command port (log 14). -/
def placeInstr (s : State) (i : Instr) : State :=
  { s with
    cfg := fetchCfg s.cfg i
    seq := .idle
    fsel := ⟨i.func, true⟩
    a1 := ⟨{ s.a1.cell with scale := i.fields.scale }, true⟩
    a2 := ⟨s.a2.cell, true⟩
    clock := true
    agenda := .command .calc :: s.agenda }

end Sys2Proof.Machine
end

