-- ==== Sys2Proof/Machine/Step.lean ====
section
/-! DEFINITION. One step of the machine: one command, one bus access, or one move of an agent outside the block
(R43, decision D1). -/

namespace Sys2Proof.Machine

/-- What an action does to the state. -/
def perform (a : Action) (s : State) : Host.Outcome State Fault Refusal :=
  match a with
  | .refuse r => .refused r
  | .run i => exec i (takeMove s)
  | .command c => execCommand c (takeMove s)
  | .engine e1 e2 => .next (engineMove e1 e2 (takeMove s))
  | .clock on => .next (setClock on (takeMove s))
  | .reset => .next (hardwareReset (takeMove s))
  | .wait => .next (takeMove s)

def step (s : State) : Host.Outcome State Fault Refusal := perform (nextAction s) s

/-- `s` with the instruction of a table row's word placed so that the very next step fetches and runs it. A word that is
no control word of the block can be placed nowhere: `s` stays as it is. -/
def State.withFetchWord (s : State) (nbits w : Nat) : State :=
  match decodeTableWord nbits w with
  | some i => placeInstr s i
  | none => s

end Sys2Proof.Machine
end

