-- ==== Sys2Proof/Safety.lean ====
section
/-! DEFINITION. What counts as a safe run, in the terms the statements use: the invariant of the block (`Inv`), the
agreement of the block with an engine that keeps the contract of R41 (`EngineSync`), and the order of the bus accesses
(`BusOrder`). -/

namespace Sys2Proof.Machine

/-- R26, R123: a raw is a signed W-bit integer. -/
abbrev RawInRange (f : Fmt) (raw : Int) : Prop := rawMin f ≤ raw ∧ raw ≤ rawMax f

/-- A cell register that has been written holds a legal raw. -/
def LegalReg (f : Fmt) (r : CellReg) : Prop := r.written = true → RawInRange f r.cell.raw

/-- The latches of the CALC that the operand registers call for (R30, R186). -/
def calledLatches (s : State) : Latches :=
  ⟨s.fsel.func.code, (selected s).nargs, (selected s).nres, s.a1.cell.scale, rawToWord s.a1.cell.raw,
    rawToWord s.a2.cell.raw⟩

/-- The invariant of the block. -/
structure State.Inv (s : State) : Prop where
  /-- R214: the configuration breaks no constraint. -/
  cfg_wf : s.cfg.wf = true
  /-- R26, R123: every written cell is a W-bit integer. -/
  a1_legal : LegalReg s.cfg.fmt s.a1
  a2_legal : LegalReg s.cfg.fmt s.a2
  r1_legal : LegalReg s.cfg.fmt s.r1
  r2_legal : LegalReg s.cfg.fmt s.r2
  /-- R181, R234: CREATE writes FSEL, A1 and A2 together, and nothing is written before it. -/
  created : (s.fsel.written = true ↔ s.a1.written = true) ∧ (s.fsel.written = true ↔ s.a2.written = true)
  /-- R29: a result belongs to an operation, and R2 is written only by a function with two results. -/
  r1_owned : s.r1.written = true → s.fsel.written = true
  r2_owned : s.r2.written = true → s.fsel.written = true ∧ (selected s).nres = .two
  /-- R30, R66: while a transaction runs the latches are those of FSEL, A1 and A2. -/
  running : s.seq ≠ .idle → s.fsel.written = true ∧ s.latch = calledLatches s
  /-- R194: the second argument is written only when two are declared. -/
  wr2_two : s.seq = .wr2 → s.latch.ln = .two
  /-- R196: the second result is read only when two are declared. -/
  rd2_two : s.seq = .rd2 → s.latch.lr = .two
  /-- R193: a field-by-field write is in progress only at CFG, and only in that mode. -/
  cfg_place : s.seq ≠ .cfg ∨ s.cfg.csrWriteMode = .single → s.cfgField = .func ∧ s.cfgHeld = none

/-- The fields a field-by-field write has done before field `x` (R193). -/
def doneMask : CsrField → Word
  | .func => 0
  | .argSize => 0x0000000F
  | .resSize => 0x0040000F
  | .nargs => 0x0060000F
  | .nres => 0x0070000F
  | .precision => 0x0078000F
  | .scale => 0x007800FF
  | .dmaWEn => 0x007807FF
  | .dmaREn => 0x007C07FF
  | .ien => 0x007E07FF

/-- CSR bits 22:0 hold the control word of the transaction (R60, R193). -/
def csrInForce (s : State) : Prop := s.engine.csr = (latchedWord s).extractLsb' 0 23

/-- A field-by-field write so far: the fields done hold the control word's, the unnamed bits are 0 after the first
write, and a word held is CSR's. -/
def fieldsInForce (s : State) : Prop :=
  s.engine.csr.setWidth 32 &&& doneMask s.cfgField = latchedWord s &&& doneMask s.cfgField ∧
    (s.cfgField ≠ .func → s.engine.csr.extractLsb' 11 5 = 0) ∧
    ∀ r, s.cfgHeld = some r → r &&& 0x007F07FF = s.engine.csr.setWidth 32 &&& 0x007F07FF

/-- The engine keeps step with the sequencer: RDY and the slot are what SEQ calls for, and from WR1 on the control word of
the transaction is in force (R41, R60, R193, R239). It needs the peripheral clocked, no hardware reset and no clock-off
among the moves to come, and an engine that expects the counts declared (R236, R241). -/
structure State.EngineSync (s : State) : Prop where
  clocked : s.clock = true
  moves : ∀ m ∈ s.agenda, m ≠ .reset ∧ m ≠ .clock false
  arities : ∀ f, s.cfg.arities.of f = ⟨(s.cfg.desc.of f).nargs, (s.cfg.desc.of f).nres⟩
  phase :
    match s.seq with
    | .idle => engineIdle s.engine = true
    | .cfg => engineIdle s.engine = true ∧ fieldsInForce s
    | .wr1 => engineIdle s.engine = true ∧ csrInForce s
    | .wr2 => s.engine.slot = .collecting ∧ s.engine.erdy = false ∧ csrInForce s
    | .poll =>
      csrInForce s ∧
        (s.engine.slot = .computing ∧ s.engine.erdy = false ∨ s.engine.slot = .ready0 ∧ s.engine.erdy = true)
    | .rd1 => csrInForce s ∧ s.engine.slot = .ready0 ∧ s.engine.erdy = true
    | .rd2 => csrInForce s ∧ s.engine.slot = .ready1 ∧ s.engine.erdy = true

/-- The address of a bus access. -/
def accessAddr : BusAccess → Word
  | .write a _ => a
  | .read a _ => a

/-- The accesses that bring the control word to CSR (R193): one write, or ten reads and ten writes of CSR. -/
def ControlAccesses (s : State) (l : List BusAccess) : Prop :=
  match s.cfg.csrWriteMode with
  | .single => l = [.write (csrAddr s.cfg) (latchedWord s)]
  | .perField => l.length = 20 ∧ ∀ x ∈ l, accessAddr x = csrAddr s.cfg

/-- How many fields a field-by-field write has done before field `x` (R193). -/
def fieldIndex : CsrField → Nat
  | .func => 0
  | .argSize => 1
  | .resSize => 2
  | .nargs => 3
  | .nres => 4
  | .precision => 5
  | .scale => 6
  | .dmaWEn => 7
  | .dmaREn => 8
  | .ien => 9

/-- The accesses of a CSR write in progress (R193): none, or as many as the fields done take. -/
def ControlProgress (s : State) (l : List BusAccess) : Prop :=
  match s.cfg.csrWriteMode with
  | .single => l = []
  | .perField => l.length = 2 * fieldIndex s.cfgField + s.cfgHeld.toList.length ∧ ∀ x ∈ l, accessAddr x = csrAddr s.cfg

/-- The WDATA writes of the transaction, newest first (R194). -/
def argumentAccesses (s : State) : List BusAccess :=
  match s.latch.ln with
  | .one => [.write (wdataAddr s.cfg) s.latch.lw1]
  | .two => [.write (wdataAddr s.cfg) s.latch.lw2, .write (wdataAddr s.cfg) s.latch.lw1]

/-- Polls that found RDY 0 (R195). -/
def PollsNotReady (s : State) (l : List BusAccess) : Prop :=
  ∀ x ∈ l, ∃ r, x = .read (csrAddr s.cfg) r ∧ rdy r = false

/-- The accesses up to a poll that found RDY 1, newest first (R62, R64, R198). -/
def ReadyAccesses (s : State) (l : List BusAccess) : Prop :=
  ∃ r polls ctl, l = .read (csrAddr s.cfg) r :: (polls ++ argumentAccesses s ++ ctl) ∧ rdy r = true ∧
    PollsNotReady s polls ∧ ControlAccesses s ctl

/-- The accesses of a whole transaction, newest first (R198). -/
def WholeTransaction (s : State) (l : List BusAccess) : Prop :=
  ∃ ready, ReadyAccesses s ready ∧
    match s.latch.lr with
    | .one => ∃ w1, l = .read (rdataAddr s.cfg) w1 :: ready
    | .two => ∃ w1 w2, l = .read (rdataAddr s.cfg) w2 :: .read (rdataAddr s.cfg) w1 :: ready

/-- R62, R64, R198: the accesses of the transaction so far are those that the steps before SEQ call for, in their
order. -/
def State.BusOrder (s : State) : Prop :=
  match s.seq with
  | .idle => s.bus = [] ∨ WholeTransaction s s.bus
  | .cfg => ControlProgress s s.bus
  | .wr1 => ControlAccesses s s.bus
  | .wr2 => ∃ ctl, ControlAccesses s ctl ∧ s.bus = .write (wdataAddr s.cfg) s.latch.lw1 :: ctl
  | .poll => ∃ polls ctl, s.bus = polls ++ argumentAccesses s ++ ctl ∧ PollsNotReady s polls ∧ ControlAccesses s ctl
  | .rd1 => ReadyAccesses s s.bus
  | .rd2 => ∃ w1 ready, s.bus = .read (rdataAddr s.cfg) w1 :: ready ∧ ReadyAccesses s ready

end Sys2Proof.Machine
end

