-- ==== Sys2Proof/Certificates/Slice0/Obligations.lean ====
section
/-! DEFINITION. The statements for the provers. -/

open Sys2Proof Sys2Proof.Machine

/-! ### The control word -/

/-- 95_test_vectors.md 2.11: words of the ten functions, in both formats, decode to the instructions they stand for. -/
def Obligations.TableWordsDecode : Prop :=
  decodeTableWord 32 0x00180060 = some (.calcCos .bits32 .bits32 0 6) ∧
    decodeTableWord 32 0x00780061 = some (.calcSin .bits16 .bits16 0 6) ∧
    decodeTableWord 32 0x00180062 = some (.calcPhase .bits32 .bits32 0 6) ∧
    decodeTableWord 32 0x00780063 = some (.calcMod .bits16 .bits16 0 6) ∧
    decodeTableWord 32 0x00000704 = some (.calcAtan .bits32 .bits32 7 0) ∧
    decodeTableWord 32 0x00600165 = some (.calcCosh .bits16 .bits16 1 6) ∧
    decodeTableWord 32 0x00000166 = some (.calcSinh .bits32 .bits32 1 6) ∧
    decodeTableWord 32 0x00600167 = some (.calcAtanh .bits16 .bits16 1 6) ∧
    decodeTableWord 32 0x00000468 = some (.calcLn .bits32 .bits32 4 6) ∧
    decodeTableWord 32 0x006007F9 = some (.calcSqrt .bits16 .bits16 7 15)

/-- Decoding what the encoder makes of any instruction gives the instruction back, every operand at every value, under
every descriptor table (R80, R86, R87). -/
def Obligations.DecodeOfEncodeIsTheInstruction : Prop :=
  ∀ (d : DescTable) (i : Instr), decode d (encode d i) = .ok i

/-- A word that decodes is the encoding of what it decodes to: each control word has one meaning (R80, R87). -/
def Obligations.EncodeOfDecodeIsTheWord : Prop :=
  ∀ (d : DescTable) (w : Word) (i : Instr), decode d w = .ok i → encode d i = w

/-- Under the default descriptors the decoder reads an instruction of function `f` from exactly the words that the opcode
table's mask and match give to `f` (R87, R97). -/
def Obligations.MaskAndMatchSelectTheFunction : Prop :=
  ∀ (w : Word) (f : Func), (∃ i, decode .default w = .ok i ∧ i.func = f) ↔ w &&& tableMask = tableMatch f

/-- No word with a bit of 31:23, 18:16 or 15:11 set and no word with FUNC above 9 decodes, under any descriptor table
(R83, R88, R89, R92). -/
def Obligations.ReservedWordsDoNotDecode : Prop :=
  ∀ (d : DescTable) (w : Word) (i : Instr), decode d w = .ok i →
    w &&& 0xFF87F800 = 0 ∧ (w.extractLsb' 0 4).toNat < 10

/-- R85, R86, R187, R190, R191: the control word of a CALC and of a running transaction carry PRECISION = `Cfg.PRECISION`
in bits 7:4, SCALE = the scale of argument 1 (A1 at acceptance, then LS) in bits 10:8 and FUNC in bits 3:0, with the ten
opcodes of the map. -/
def Obligations.ControlWordCarriesItsFields : Prop :=
  (∀ s : State,
    (selectedWord s).extractLsb' 4 4 = s.cfg.precision ∧ (selectedWord s).extractLsb' 8 3 = s.a1.cell.scale ∧
      (selectedWord s).extractLsb' 0 4 = s.fsel.func.code ∧
      (latchedWord s).extractLsb' 4 4 = s.cfg.precision ∧ (latchedWord s).extractLsb' 8 3 = s.latch.ls ∧
      (latchedWord s).extractLsb' 0 4 = s.latch.lf) ∧
    Func.code .cos = 0 ∧ Func.code .sin = 1 ∧ Func.code .phase = 2 ∧ Func.code .mod = 3 ∧ Func.code .atan = 4 ∧
    Func.code .cosh = 5 ∧ Func.code .sinh = 6 ∧ Func.code .atanh = 7 ∧ Func.code .ln = 8 ∧ Func.code .sqrt = 9

/-- R83, R88, R89, R81, R82 (polarities D9, D10, D40): in the control word ARGSIZE and RESSIZE are both 1 in Q1_15 and 0
in Q1_31, NARGS and NRES are the counts minus one, and every other bit outside SCALE, PRECISION and FUNC is 0. -/
def Obligations.ControlWordSizesCountsAndZeros : Prop :=
  ∀ s : State,
    (latchedWord s).getLsbD 22 = decide (s.cfg.fmt = .q1_15) ∧ (latchedWord s).getLsbD 21 = decide (s.cfg.fmt = .q1_15) ∧
      (latchedWord s).getLsbD 20 = decide (s.latch.ln = .two) ∧ (latchedWord s).getLsbD 19 = decide (s.latch.lr = .two) ∧
      latchedWord s &&& 0xFF87F800 = 0

/-! ### The step -/

/-- A step runs the decoded instruction. With CALC next on the command port and SEQ `idle`, it is the instruction of the
control word that FSEL, A1 and `Cfg` make; while a transaction runs and the turn is the sequencer's, it is the
instruction of the word in the latches. Around `exec` the step takes the head of the agenda and nothing else. -/
def Obligations.StepRunsTheDecodedInstruction : Prop :=
  (∀ (s : State) (i : Instr) (rest : List Move), s.cfg.wf = true → s.seq = .idle → s.agenda = .command .calc :: rest →
    decode s.cfg.desc (selectedWord s) = .ok i → step s = exec i { s with agenda := rest }) ∧
    ∀ (s : State) (i : Instr), s.cfg.wf = true → s.seq ≠ .idle →
      s.agenda = [] ∨ (∃ rest, s.agenda = .access :: rest) →
      decode s.cfg.desc (latchedWord s) = .ok i → step s = exec i { s with agenda := s.agenda.tail }

/-- The instruction of a CALC is the one of FSEL, with the format's word size twice, A1.scale and `Cfg.PRECISION` as its
operands, and it is well formed; while a transaction runs it is the same with LS (R81, R187 to R191). -/
def Obligations.FetchedInstructionIsTheSelectedOne : Prop :=
  (∀ s : State,
    decode s.cfg.desc (selectedWord s) = .ok (Instr.make s.fsel.func
      ⟨.ofFmt s.cfg.fmt, .ofFmt s.cfg.fmt, s.a1.cell.scale, s.cfg.precision⟩)) ∧
    (∀ s : State, s.Inv → s.seq ≠ .idle →
      decode s.cfg.desc (latchedWord s) = .ok (Instr.make s.fsel.func
        ⟨.ofFmt s.cfg.fmt, .ofFmt s.cfg.fmt, s.latch.ls, s.cfg.precision⟩)) ∧
    ∀ (f : Func) (z : WordSize) (sc : BitVec 3) (p : BitVec 4), (Instr.make f ⟨z, z, sc, p⟩).wellFormed = true

/-- The model's own placing of an instruction (log 14): from every state, the step after `withFetchWord` runs the
well-formed instruction of the word. -/
def Obligations.PlacedWordIsRunByTheNextStep : Prop :=
  ∀ (s : State) (nbits w : Nat) (i : Instr), decodeTableWord nbits w = some i → i.wellFormed = true →
    step (s.withFetchWord nbits w) = exec i { s.withFetchWord nbits w with agenda := s.agenda }

/-- A move of another agent: a command other than CALC runs as that command, an engine move is the engine's if it is
clocked and else leaves a free engine, the clock enable goes on, or goes off and leaves a free engine (R236; both free
engines are the model's choice, log 10), a reset is the hardware reset; at `idle` with nothing to do the block waits (R43,
R233; log 5). -/
def Obligations.StepPerformsTheMoveNext : Prop :=
  ∀ (s : State) (rest : List Move), s.cfg.wf = true →
    (∀ c, c ≠ .calc → s.agenda = .command c :: rest → step s = execCommand c { s with agenda := rest }) ∧
    (∀ e1 e2, s.agenda = .engine e1 e2 :: rest →
      (s.clock = true → step s = .next { s with agenda := rest, engine := engineFinish e1 e2 s.engine }) ∧
      (s.clock = false → step s = .next { s with
        agenda := rest, engine := Config.freeEngine s.draws, draws := s.draws + 1 })) ∧
    (s.agenda = .clock true :: rest → step s = .next { s with agenda := rest, clock := true }) ∧
    (s.agenda = .clock false :: rest → step s = .next { s with
      agenda := rest, clock := false, engine := Config.freeEngine s.draws, draws := s.draws + 1 }) ∧
    (s.agenda = .reset :: rest → step s = .next (hardwareReset { s with agenda := rest })) ∧
    (s.seq = .idle → s.agenda = .access :: rest → step s = .next { s with agenda := rest }) ∧
    (s.seq = .idle → s.agenda = [] → step s = .next s)

/-- R180: a command presented while a transaction runs is refused as busy, whatever it is. -/
def Obligations.CommandsAreRefusedWhileBusy : Prop :=
  ∀ (s : State) (c : Command) (rest : List Move), s.cfg.wf = true → s.seq ≠ .idle → s.agenda = .command c :: rest →
    step s = .refused .busy

/-- R214 `bad_config`: a step is refused so exactly when the configuration breaks a constraint, whatever is to be done:
BASE is no multiple of 4, PI is not positive, VEC_MARGIN is not above 1, or for some kind the allowed range is upside down
(R7), or the table is empty, its exponents do not ascend strictly or leave 0 to 7, or a range is upside down (R112). -/
def Obligations.BadConfigurationIsRefused : Prop :=
  ∀ s : State, step s = .refused .badConfig ↔
    s.cfg.base.toNat % 4 ≠ 0 ∨ s.cfg.pi ≤ 0 ∨ s.cfg.vecMargin ≤ 1 ∨
      ∃ k,
        (s.cfg.kinds.of k).allowedHi < (s.cfg.kinds.of k).allowedLo ∨
        (s.cfg.kinds.of k).table.ranges = [] ∨
        ¬ ((s.cfg.kinds.of k).table.ranges.map Range.exp).Pairwise (· < ·) ∨
        ∃ r ∈ (s.cfg.kinds.of k).table.ranges, r.exp < 0 ∨ 7 < r.exp ∨ r.hi < r.lo

/-- R210: no command and no step has a trapping case: no step faults. -/
def Obligations.NoStepFaults : Prop :=
  ∀ (s : State) (r : Fault), step s ≠ .fault r

/-- R20: no command and no bus access, and no other step, changes the configuration. -/
def Obligations.NoStepChangesTheConfiguration : Prop :=
  ∀ s t : State, step s = .next t → t.cfg = s.cfg

/-! ### CALC, all ten functions -/

/-- R186, R30: at `idle`, with FSEL, A1, A2 if two arguments are declared, written and the clock on, every CALC is
accepted: the latches are loaded from the descriptor of its function, A1 and A2, SEQ becomes `cfg`, and nothing reaches
the bus. An engine that is idle stays as it is (R239); one that is not is a free value from here on (U13, log 8). -/
def Obligations.CalcIsAccepted : Prop :=
  ∀ (i : Instr) (s : State), s.seq = .idle → s.fsel.written = true → s.a1.written = true →
    ((s.cfg.desc.of i.func).nargs = .two → s.a2.written = true) → s.clock = true →
    exec i s = .next { s with
      seq := .cfg
      latch :=
        { lf := i.func.code
          ln := (s.cfg.desc.of i.func).nargs
          lr := (s.cfg.desc.of i.func).nres
          ls := s.a1.cell.scale
          lw1 := BitVec.ofInt 32 s.a1.cell.raw
          lw2 := BitVec.ofInt 32 s.a2.cell.raw }
      engine := if s.engine.erdy = false ∧ s.engine.slot = .empty then s.engine else Config.freeEngine s.draws
      cfgField := .func
      cfgHeld := none
      bus := []
      draws := s.draws + 1 }

/-- R186, R214, R219: a CALC at `idle` is refused as `no_operation` when FSEL, A1, or A2 of a two-argument function has
not been written, else as `clock` when the peripheral clock is off. -/
def Obligations.CalcIsRefusedInOrder : Prop :=
  ∀ (i : Instr) (s : State), s.seq = .idle →
    (s.fsel.written = false ∨ s.a1.written = false ∨ (s.cfg.desc.of i.func).nargs = .two ∧ s.a2.written = false →
      exec i s = .refused .noOperation) ∧
    (s.fsel.written = true → s.a1.written = true → ((s.cfg.desc.of i.func).nargs = .two → s.a2.written = true) →
      s.clock = false → exec i s = .refused .clock)

/-- R193 `single`: at CFG one CSR write carries the whole control word; SEQ becomes WR1. On an unclocked peripheral the
engine is a free value (log 10). -/
def Obligations.ControlWordIsWrittenOnce : Prop :=
  ∀ (i : Instr) (s : State), s.seq = .cfg → s.cfg.csrWriteMode = .single →
    let w := csrWord i.fields.argSize i.fields.resSize s.latch.ln s.latch.lr i.fields.scale i.fields.precision i.func.code
    exec i s = .next { s with
      seq := .wr1
      engine := if s.clock then { s.engine with csr := w.extractLsb' 0 23 } else Config.freeEngine s.draws
      bus := .write s.cfg.base w :: s.bus
      draws := s.draws + 1 }

/-- R193 `per_field`: at CFG each field takes one CSR read and then one CSR write of
`((r & 0x007F07FF) & ~m) | (w & m)`; after the last field SEQ becomes WR1. One access a step (log 16); the reserved
bits of the word read are 0 (log 26). -/
def Obligations.ControlWordIsWrittenByFields : Prop :=
  ∀ (i : Instr) (s : State), s.seq = .cfg → s.cfg.csrWriteMode = .perField → s.clock = true →
    let w := csrWord i.fields.argSize i.fields.resSize s.latch.ln s.latch.lr i.fields.scale i.fields.precision i.func.code
    let m := s.cfgField.mask
    (s.cfgHeld = none → exec i s = .next { s with
      cfgHeld := some (engineReadCsr s.engine)
      bus := .read s.cfg.base (engineReadCsr s.engine) :: s.bus
      draws := s.draws + 1 }) ∧
    ∀ r, s.cfgHeld = some r →
      let u := ((r &&& 0x007F07FF) &&& ~~~m) ||| (w &&& m)
      let t := { s with
        engine := { s.engine with csr := u.extractLsb' 0 23 }
        bus := .write s.cfg.base u :: s.bus
        draws := s.draws + 1
        cfgHeld := none }
      (∀ g, s.cfgField.after = some g → exec i s = .next { t with cfgField := g }) ∧
      (s.cfgField.after = none → exec i s = .next { t with cfgField := .func, seq := .wr1 })

/-- R193: in both modes CSR bits 22:0 equal the control word when SEQ becomes WR1. From CFG in the mode `per_field`,
twenty turns of the sequencer bring CSR to the control word and SEQ to WR1 and leave all else but the bus log as it was. -/
def Obligations.FieldWritesReachTheControlWord : Prop :=
  ∀ (s : State) (rest : List Move), s.Inv → s.seq = .cfg → s.cfg.csrWriteMode = .perField → s.cfgField = .func →
    s.cfgHeld = none → s.clock = true → s.agenda = List.replicate 20 .access ++ rest →
    ∃ bus, bus.length = 20 ∧ Sys2Proof.core.run 20 s = .next { s with
      seq := .wr1
      engine := { s.engine with csr := (latchedWord s).extractLsb' 0 23 }
      agenda := rest
      bus := bus ++ s.bus
      draws := s.draws + 20 }

/-- R194: at WR1 one WDATA write of LW1, and SEQ becomes WR2 if LN = 2, else POLL; at WR2 one WDATA write of LW2, and SEQ
becomes POLL. The engine takes the word as the contract says (R41 item 2); the accesses go to BASE + 4 (R51;
that the sum wraps past 32 bits is the model's choice, log 31). -/
def Obligations.ArgumentWordsAreWritten : Prop :=
  ∀ (i : Instr) (s : State), s.clock = true →
    (s.seq = .wr1 → exec i s = .next { s with
      seq := if s.latch.ln = .two then .wr2 else .poll
      engine := engineWriteData s.draws s.latch.lw1 s.engine
      bus := .write (s.cfg.base + 4) s.latch.lw1 :: s.bus
      draws := s.draws + 1 }) ∧
    (s.seq = .wr2 → exec i s = .next { s with
      seq := .poll
      engine := engineWriteData s.draws s.latch.lw2 s.engine
      bus := .write (s.cfg.base + 4) s.latch.lw2 :: s.bus
      draws := s.draws + 1 })

/-- R195: at POLL one CSR read, and SEQ becomes RD1 if the word read has bit 31 set, which is RDY (R34), else stays.
The reserved bits of that word are 0 (log 26). -/
def Obligations.PollReadsUntilReady : Prop :=
  ∀ (i : Instr) (s : State), s.seq = .poll → s.clock = true →
    exec i s = .next { s with
      seq := if s.engine.erdy then .rd1 else .poll
      bus := .read s.cfg.base (engineReadCsr s.engine) :: s.bus
      draws := s.draws + 1 }

/-- R196, R119, R122: at RD1 one RDATA read; R1 becomes the cell of the word read, the latched scale LS and the function's
post-scale; SEQ becomes RD2 if LR = 2, else `idle`. Nothing else of the block changes, R2 among it. The address BASE + 8
wraps past 32 bits (log 31). -/
def Obligations.PrimaryResultIsStored : Prop :=
  ∀ (i : Instr) (s : State), s.seq = .rd1 → s.clock = true →
    exec i s = .next { s with
      seq := if s.latch.lr = .two then .rd2 else .idle
      r1 :=
        { cell :=
            { raw := wordToRaw s.cfg.fmt (engineReadData s.cfg s.draws s.engine).1
              scale := s.latch.ls
              soft := (s.cfg.desc.of i.func).post1.value s.cfg.pi }
          written := true }
      engine := (engineReadData s.cfg s.draws s.engine).2
      bus := .read (s.cfg.base + 8) (engineReadData s.cfg s.draws s.engine).1 :: s.bus
      draws := s.draws + 1 }

/-- R196, R119, R122: at RD2 one RDATA read; R2 becomes the cell of the word read, LS and the function's second
post-scale; SEQ becomes `idle`. The address BASE + 8 wraps past 32 bits (log 31). -/
def Obligations.SecondaryResultIsStored : Prop :=
  ∀ (i : Instr) (s : State), s.seq = .rd2 → s.clock = true →
    exec i s = .next { s with
      seq := .idle
      r2 :=
        { cell :=
            { raw := wordToRaw s.cfg.fmt (engineReadData s.cfg s.draws s.engine).1
              scale := s.latch.ls
              soft := (s.cfg.desc.of i.func).post2.value s.cfg.pi }
          written := true }
      engine := (engineReadData s.cfg s.draws s.engine).2
      bus := .read (s.cfg.base + 8) (engineReadData s.cfg s.draws s.engine).1 :: s.bus
      draws := s.draws + 1 }

/-- R236, log 10: with the clock off during a transaction every step of it is still taken, and the engine is a free
value. -/
def Obligations.UnclockedTransactionGoesOn : Prop :=
  ∀ (i : Instr) (s : State), s.seq ≠ .idle → s.clock = false → ∃ t, exec i s = .next t ∧
    t.engine = Config.freeEngine s.draws ∧ t.fsel = s.fsel ∧ t.a1 = s.a1 ∧ t.a2 = s.a2 ∧ t.latch = s.latch

/-- R23 with decisions D18 and D19, R151 to R155, R161 to R163, R171, R172: under the default descriptors a result cell's
post-scale is PI on the primary result of PHASE and the secondary of MOD, 2 on the primary result of LN, 1 on the other
primary results and on the secondary of COS, SIN and PHASE; and the counts are 2 and 2 for COS, SIN, PHASE, MOD, 1 and 1
for the others, which have no second post-scale. -/
def Obligations.DefaultPostScalesAndCounts : Prop :=
  ∀ (i : Instr) (s t : State), s.cfg.desc = .default → exec i s = .next t →
    (s.seq = .rd1 → t.r1.cell.soft =
      match i with
      | .calcPhase _ _ _ _ => s.cfg.pi
      | .calcLn _ _ _ _ => 2
      | .calcCos _ _ _ _ | .calcSin _ _ _ _ | .calcMod _ _ _ _ | .calcAtan _ _ _ _ | .calcCosh _ _ _ _
      | .calcSinh _ _ _ _ | .calcAtanh _ _ _ _ | .calcSqrt _ _ _ _ => 1) ∧
    (s.seq = .rd2 →
      match i with
      | .calcMod _ _ _ _ => t.r2.cell.soft = s.cfg.pi
      | .calcCos _ _ _ _ | .calcSin _ _ _ _ | .calcPhase _ _ _ _ => t.r2.cell.soft = 1
      | .calcAtan _ _ _ _ | .calcCosh _ _ _ _ | .calcSinh _ _ _ _ | .calcAtanh _ _ _ _ | .calcLn _ _ _ _
      | .calcSqrt _ _ _ _ => True) ∧
    (s.seq = .idle →
      match i with
      | .calcCos _ _ _ _ | .calcSin _ _ _ _ | .calcPhase _ _ _ _ | .calcMod _ _ _ _ =>
        t.latch.ln = .two ∧ t.latch.lr = .two
      | .calcAtan _ _ _ _ | .calcCosh _ _ _ _ | .calcSinh _ _ _ _ | .calcAtanh _ _ _ _ | .calcLn _ _ _ _
      | .calcSqrt _ _ _ _ => t.latch.ln = .one ∧ t.latch.lr = .one)

/-- The frame of the ten instructions. A CALC step changes R1 only at RD1 and R2 only at RD2, the latches only at
acceptance, the place in a field-by-field write only at acceptance and at CFG; FSEL, A1, A2, the configuration, the
clock enable, the agenda and the reply never. At acceptance the bus log is emptied; any other step adds one access, at
CSR's address at CFG and POLL, a WDATA write at WR1 and WR2, an RDATA read at RD1 and RD2 (R51; log 18, 31). Of a clocked
engine within its contract (R41) the CFG step changes the CSR bits alone, and a read of them nothing; a WDATA write keeps
CSR, the result words and the other argument word; a poll keeps all; an RDATA read keeps CSR and the four words. -/
def Obligations.CalcFrame : Prop :=
  ∀ (i : Instr) (s t : State), exec i s = .next t →
    t.cfg = s.cfg ∧ t.fsel = s.fsel ∧ t.a1 = s.a1 ∧ t.a2 = s.a2 ∧ t.clock = s.clock ∧ t.agenda = s.agenda ∧
      t.reply = s.reply ∧ (s.seq ≠ .rd1 → t.r1 = s.r1) ∧ (s.seq ≠ .rd2 → t.r2 = s.r2) ∧
      (s.seq ≠ .idle → t.latch = s.latch) ∧
      (s.seq ≠ .idle → s.seq ≠ .cfg → t.cfgField = s.cfgField ∧ t.cfgHeld = s.cfgHeld) ∧
      (match s.seq with
        | .idle => t.bus = []
        | .cfg => ∃ x, accessAddr x = csrAddr s.cfg ∧ t.bus = x :: s.bus
        | .wr1 => t.bus = .write (wdataAddr s.cfg) s.latch.lw1 :: s.bus
        | .wr2 => t.bus = .write (wdataAddr s.cfg) s.latch.lw2 :: s.bus
        | .poll => ∃ w, t.bus = .read (csrAddr s.cfg) w :: s.bus
        | .rd1 | .rd2 => ∃ w, t.bus = .read (rdataAddr s.cfg) w :: s.bus) ∧
      (s.seq = .idle → engineIdle s.engine = true → t.engine = s.engine) ∧
      (s.seq = .cfg → s.clock = true →
        t.engine = { s.engine with csr := t.engine.csr } ∧
          (s.cfg.csrWriteMode = .perField → s.cfgHeld = none → t.engine = s.engine)) ∧
      (s.seq = .wr1 ∨ s.seq = .wr2 → s.clock = true → s.engine.slot ≠ .computing →
        t.engine.csr = s.engine.csr ∧ t.engine.res1 = s.engine.res1 ∧ t.engine.res2 = s.engine.res2 ∧
          (s.engine.slot = .collecting → t.engine.arg1 = s.engine.arg1 ∧ t.engine.erdy = s.engine.erdy) ∧
          (s.engine.slot ≠ .collecting → t.engine.arg2 = s.engine.arg2)) ∧
      (s.seq = .poll → s.clock = true → t.engine = s.engine) ∧
      (s.seq = .rd1 ∨ s.seq = .rd2 → s.clock = true → countsMatch s.cfg s.engine = true →
        s.engine.slot = .ready0 ∨ s.engine.slot = .ready1 →
        t.engine.csr = s.engine.csr ∧ t.engine.arg1 = s.engine.arg1 ∧ t.engine.arg2 = s.engine.arg2 ∧
          t.engine.res1 = s.engine.res1 ∧ t.engine.res2 = s.engine.res2)

/-- R202: the only control flow is the movement of SEQ: `idle` to CFG (R186); CFG to WR1 (R193); WR1 to WR2 if LN = 2,
else to POLL, and WR2 to POLL (R194); POLL to itself or to RD1 (R195); RD1 to RD2 if LR = 2, else to `idle`, and RD2 to
`idle` (R196). That SEQ stays at CFG between the accesses of the mode `per_field` is the model's choice (log 16). -/
def Obligations.SeqMovesAsTheSteps : Prop :=
  ∀ (i : Instr) (s t : State), exec i s = .next t →
    match s.seq with
    | .idle => t.seq = .cfg
    | .cfg => t.seq = .wr1 ∨ t.seq = .cfg ∧ s.cfg.csrWriteMode = .perField
    | .wr1 => s.latch.ln = .two ∧ t.seq = .wr2 ∨ s.latch.ln = .one ∧ t.seq = .poll
    | .wr2 => t.seq = .poll
    | .poll => ∃ r, t.bus = .read s.cfg.base r :: s.bus ∧ t.seq = (if r.getLsbD 31 then .rd1 else .poll)
    | .rd1 => s.latch.lr = .two ∧ t.seq = .rd2 ∨ s.latch.lr = .one ∧ t.seq = .idle
    | .rd2 => t.seq = .idle

/-- R26, R15: the soft scale of an argument never reaches the bus. Two states that differ in the soft scales of A1 and A2
alone take the same CALC step, and differ in them alone after it. -/
def Obligations.SoftScaleNeverReachesTheBus : Prop :=
  ∀ (i : Instr) (s t : State) (x y : Value), exec i s = .next t →
    exec i { s with a1 := { s.a1 with cell := { s.a1.cell with soft := x } },
                    a2 := { s.a2 with cell := { s.a2.cell with soft := y } } } =
      .next { t with a1 := { t.a1 with cell := { t.a1.cell with soft := x } },
                     a2 := { t.a2 with cell := { t.a2.cell with soft := y } } }

/-- R198: the whole transaction in the mode `single`. From `idle`, with the operation created, the clock on, the engine
idle and expecting the counts declared: after CALC, the CSR write, the declared WDATA writes, `k` polls that find RDY 0,
the engine's step with the words `e1`, `e2`, one poll that finds RDY 1 and the declared RDATA reads, SEQ is `idle`, the
results are the cells of the words, the engine is idle again, and the bus log is the trace of R198, 3 + (k + 1) accesses
with one argument and one result, 5 + (k + 1) with two and two. The addresses wrap past 32 bits (log 31);
the reserved bits of the words polled are 0 (log 26). -/
def Obligations.WholeTransactionCompletes : Prop :=
  ∀ (s : State) (k : Nat) (e1 e2 : Word) (rest : List Move),
    let d := s.cfg.desc.of s.fsel.func
    let w := selectedWord s
    let lw1 := rawToWord s.a1.cell.raw
    let lw2 := rawToWord s.a2.cell.raw
    let done : Word := w &&& 0x007F07FF
    s.Inv → s.EngineSync → s.seq = .idle → s.fsel.written = true → s.cfg.csrWriteMode = .single →
    s.agenda = .command .calc :: (List.replicate (1 + d.nargs.toNat + k) .access ++
      .engine e1 e2 :: (List.replicate (1 + d.nres.toNat) .access ++ rest)) →
    ∃ t, Sys2Proof.core.run (1 + (1 + d.nargs.toNat + k) + 1 + (1 + d.nres.toNat)) s = .next t ∧
      t.seq = .idle ∧ t.agenda = rest ∧
      t.r1 = ⟨cellFromWord s.cfg.fmt e1 s.a1.cell.scale (d.post1.value s.cfg.pi), true⟩ ∧
      t.r2 = (match d.nres with
        | .one => s.r2
        | .two => ⟨cellFromWord s.cfg.fmt e2 s.a1.cell.scale (d.post2.value s.cfg.pi), true⟩) ∧
      t.fsel = s.fsel ∧ t.a1 = s.a1 ∧ t.a2 = s.a2 ∧ t.cfg = s.cfg ∧ t.clock = s.clock ∧ t.reply = s.reply ∧
      t.engine.csr = w.extractLsb' 0 23 ∧ t.engine.erdy = false ∧ t.engine.slot = .empty ∧
      t.bus.reverse =
        [.write s.cfg.base w, .write (s.cfg.base + 4) lw1] ++
          (match d.nargs with | .one => [] | .two => [.write (s.cfg.base + 4) lw2]) ++
          List.replicate k (.read s.cfg.base done) ++ [.read s.cfg.base (done ||| 0x80000000)] ++
          [.read (s.cfg.base + 8) e1] ++ (match d.nres with | .one => [] | .two => [.read (s.cfg.base + 8) e2])

/-- R216: the hang. At POLL, with RDY 0, the peripheral clocked and no move to come but turns of the sequencer, the
machine runs for ever and stays at POLL; no result is written. -/
def Obligations.WithoutTheEngineThePollNeverEnds : Prop :=
  ∀ (s : State) (n : Nat), s.Inv → s.seq = .poll → s.clock = true → s.engine.erdy = false →
    (∀ m ∈ s.agenda, m = .access) →
    ∃ t, Sys2Proof.core.run n s = .next t ∧ t.seq = .poll ∧ t.r1 = s.r1 ∧ t.r2 = s.r2 ∧ t.engine = s.engine

/-! ### The bus and the engine -/

/-- R57, R51, R56 (D14, D47, log 26, 27, 31): the bus primitives at the three registers and elsewhere. An access completes with
one entry in the bus log; a read of WDATA or a write of RDATA is refused, any other address faults. -/
def Obligations.BusPrimitives : Prop :=
  ∀ (s : State) (a w : Word), s.clock = true →
    (memWrite s.cfg.base w s = .next { s with
      engine := engineWriteCsr w s.engine, bus := .write s.cfg.base w :: s.bus, draws := s.draws + 1 }) ∧
    (memWrite (s.cfg.base + 4) w s = .next { s with
      engine := engineWriteData s.draws w s.engine, bus := .write (s.cfg.base + 4) w :: s.bus, draws := s.draws + 1 }) ∧
    (memWrite (s.cfg.base + 8) w s = .refused .accessMode) ∧
    (memRead s.cfg.base s = .next (engineReadCsr s.engine, { s with
      bus := .read s.cfg.base (engineReadCsr s.engine) :: s.bus, draws := s.draws + 1 })) ∧
    (memRead (s.cfg.base + 4) s = .refused .accessMode) ∧
    (memRead (s.cfg.base + 8) s = .next ((engineReadData s.cfg s.draws s.engine).1, { s with
      engine := (engineReadData s.cfg s.draws s.engine).2
      bus := .read (s.cfg.base + 8) (engineReadData s.cfg s.draws s.engine).1 :: s.bus
      draws := s.draws + 1 })) ∧
    (a ≠ s.cfg.base → a ≠ s.cfg.base + 4 → a ≠ s.cfg.base + 8 →
      memWrite a w s = .fault (.noRegister a) ∧ memRead a s = .fault (.noRegister a))

/-- R41 items 1 and 4 (decision D26): a CSR write replaces bits 22:0 and changes neither RDY nor the slot nor the words; a
read then shows RDY in bit 31, the bits written in 22:16 and 10:0, and 0 in the rest. That the reserved bits read 0, where
U6 allows any value, is the model's choice (log 26). -/
def Obligations.CsrReadsWhatWasWritten : Prop :=
  ∀ (w : Word) (e : Engine),
    engineWriteCsr w e = { e with csr := w.extractLsb' 0 23 } ∧
    (engineReadCsr (engineWriteCsr w e)).getLsbD 31 = e.erdy ∧
    engineReadCsr (engineWriteCsr w e) &&& 0x7FFFFFFF = w &&& 0x007F07FF

/-- R41 items 2, 3 and 5 (decision D26): the last declared WDATA write starts the calculation and RDY is 0; the engine's
step makes its two words the results and RDY 1, and no such step exists outside `computing`; the last declared RDATA read
empties the slot and clears RDY. -/
def Obligations.EngineContract : Prop :=
  ∀ (c : Cfg) (n : Nat) (w e1 e2 : Word) (e : Engine),
    (e.slot = .empty ∨ e.slot = .ready0 ∨ e.slot = .ready1 →
      engineWriteData n w e = { e with
        erdy := false, slot := if e.csr.getLsbD 20 then .collecting else .computing, arg1 := w }) ∧
    (e.slot = .collecting → engineWriteData n w e = { e with slot := .computing, arg2 := w }) ∧
    (e.slot = .computing → engineFinish e1 e2 e = { e with erdy := true, slot := .ready0, res1 := e1, res2 := e2 }) ∧
    (e.slot ≠ .computing → engineFinish e1 e2 e = e) ∧
    (countsMatch c e = true → e.slot = .ready0 →
      engineReadData c n e = (e.res1,
        if e.csr.getLsbD 19 then { e with slot := .ready1 } else { e with erdy := false, slot := .empty })) ∧
    (countsMatch c e = true → e.slot = .ready1 →
      engineReadData c n e = (e.res2, { e with erdy := false, slot := .empty }))

/-- R41 item 3 (decision D26): nothing but the engine's own step, from `computing`, sets RDY, in every state in which
block and engine keep step. -/
def Obligations.OnlyTheEngineSetsReady : Prop :=
  ∀ s t : State, s.Inv → s.EngineSync → step s = .next t → s.engine.erdy = false → t.engine.erdy = true →
    s.engine.slot = .computing ∧ ∃ e1 e2 rest, s.agenda = .engine e1 e2 :: rest ∧
      t.engine.res1 = e1 ∧ t.engine.res2 = e2 ∧ t.engine.slot = .ready0

/-! ### The commands -/

/-- R181, R231 (decision D32): CREATE at `idle` selects the function, makes A1 the zero cell and A2 the encoded preset or
the zero cell, and leaves R1 and R2 not written; the rest of the block stays. -/
def Obligations.CreateBuildsTheOperation : Prop :=
  ∀ (s : State) (f : Func), s.seq = .idle →
    ∃ x y, execCommand (.create f.code) s = .next { s with
      fsel := ⟨f, true⟩
      a1 := ⟨⟨0, 0, 1⟩, true⟩
      a2 := ⟨match (s.cfg.desc.of f).args with
        | .two _ k2 (some v) => encodeValue s.cfg k2 v
        | .two _ _ none | .one _ => ⟨0, 0, 1⟩, true⟩
      r1 := ⟨x, false⟩
      r2 := ⟨y, false⟩
      draws := s.draws + 2 }

/-- R92, R214: a CREATE that carries a function number 10 to 15 is refused as `bad_function`. -/
def Obligations.CreateRefusesUnknownFunctions : Prop :=
  ∀ (s : State) (code : BitVec 4), s.seq = .idle → 10 ≤ code.toNat →
    execCommand (.create code) s = .refused .badFunction

/-- R182: SETARG1 at `idle` encodes its value for the kind of argument 1 into A1; it is refused as busy, else as
`no_operation`. Whatever the value, it is accepted: the raw stays a W-bit integer, and a scaled value outside an allowed
range that is not upside down gives the raw of the bound. The soft scale of A1 becomes 1. -/
def Obligations.SetArg1Encodes : Prop :=
  ∀ (s : State) (v : Value),
    (s.seq ≠ .idle → execCommand (.setArg1 v) s = .refused .busy) ∧
    (s.seq = .idle → s.fsel.written = false → execCommand (.setArg1 v) s = .refused .noOperation) ∧
    (s.seq = .idle → s.fsel.written = true →
      let k := (s.cfg.desc.of s.fsel.func).kind1
      let t := (s.cfg.kinds.of k).table.ranges
      let scaled := v * pow2 (-(rangeAt t (findSmallestScaleIndex t v)).exp)
      let lo := (s.cfg.kinds.of k).allowedLo
      let hi := (s.cfg.kinds.of k).allowedHi
      ∃ c, execCommand (.setArg1 v) s = .next { s with a1 := ⟨c, true⟩ } ∧ c = encodeValue s.cfg k v ∧ c.soft = 1 ∧
        RawInRange s.cfg.fmt c.raw ∧
        (lo ≤ hi → scaled < lo → c.raw = satW s.cfg.fmt (rnd (lo * pow2 s.cfg.fmt.fracBits))) ∧
        (lo ≤ hi → hi < scaled → c.raw = satW s.cfg.fmt (rnd (hi * pow2 s.cfg.fmt.fracBits))))

/-- R183, R184 (decision D18), R219: SETARG2 on a two-argument function encodes into A2 with the kind of argument 2 and is
refused as `arity` on a one-argument function; SETARG the other way round, into A1. -/
def Obligations.SetArg2AndSetArgFollowArity : Prop :=
  ∀ (s : State) (v : Value),
    (s.seq ≠ .idle → execCommand (.setArg2 v) s = .refused .busy ∧ execCommand (.setArg v) s = .refused .busy) ∧
    (s.seq = .idle → s.fsel.written = false →
      execCommand (.setArg2 v) s = .refused .noOperation ∧ execCommand (.setArg v) s = .refused .noOperation) ∧
    (s.seq = .idle → s.fsel.written = true →
      (∀ k1, (s.cfg.desc.of s.fsel.func).args = .one k1 →
        execCommand (.setArg2 v) s = .refused .arity ∧
        execCommand (.setArg v) s = .next { s with a1 := ⟨encodeValue s.cfg k1 v, true⟩ }) ∧
      (∀ k1 k2 p, (s.cfg.desc.of s.fsel.func).args = .two k1 k2 p →
        execCommand (.setArg v) s = .refused .arity ∧
        execCommand (.setArg2 v) s = .next { s with a2 := ⟨encodeValue s.cfg k2 v, true⟩ }))

/-- R185: SETVEC on a function other than PHASE and MOD is refused as `arity`. On PHASE or MOD (R128), whatever the kind of
argument 1, A1 and A2 become the encodings of the two values, or, when a magnitude is 1 or more, those of the values
divided by d = max(|x|, |y|) · VEC_MARGIN, with the soft scale d. With the default UNIT kind (R129), it sets A1 and A2 to cells of scale 0 whose soft scale is 1 when both magnitudes are below 1 and else
the divisor max(|x|, |y|) · VEC_MARGIN; each value is within one unit of raw of the coordinate; a normalised vector has,
with the default margin, fixed-point values of magnitude below 1, and any vector of magnitude at most 1 (a coordinate just
above −1 rounds to −1, log 30). -/
def Obligations.SetVecNormalises : Prop :=
  ∀ (s : State) (x y : Value), s.seq = .idle → s.fsel.written = true →
    (s.fsel.func ≠ .phase → s.fsel.func ≠ .mod → execCommand (.setVec x y) s = .refused .arity) ∧
    (s.fsel.func = .phase ∨ s.fsel.func = .mod →
      let k := (s.cfg.desc.of s.fsel.func).kind1
      let d := max |x| |y| * s.cfg.vecMargin
      (1 ≤ |x| ∨ 1 ≤ |y| → execCommand (.setVec x y) s = .next { s with
        a1 := ⟨{ encodeValue s.cfg k (x / d) with soft := d }, true⟩
        a2 := ⟨{ encodeValue s.cfg k (y / d) with soft := d }, true⟩ }) ∧
      (|x| < 1 → |y| < 1 → execCommand (.setVec x y) s = .next { s with
        a1 := ⟨encodeValue s.cfg k x, true⟩
        a2 := ⟨encodeValue s.cfg k y, true⟩ })) ∧
    (s.fsel.func = .phase ∨ s.fsel.func = .mod → s.cfg.kinds = .default → 1 < s.cfg.vecMargin →
      (s.cfg.desc.of s.fsel.func).kind1 = .unit →
      ∃ cx cy d, execCommand (.setVec x y) s = .next { s with a1 := ⟨cx, true⟩, a2 := ⟨cy, true⟩ } ∧
        d = (if 1 ≤ |x| ∨ 1 ≤ |y| then max |x| |y| * s.cfg.vecMargin else 1) ∧ cx.soft = d ∧ cy.soft = d ∧
        cx.scale = 0 ∧ cy.scale = 0 ∧ |fx s.cfg.fmt cx| ≤ 1 ∧ |fx s.cfg.fmt cy| ≤ 1 ∧
        (1 ≤ |x| ∨ 1 ≤ |y| → s.cfg.vecMargin = 23 / 20 → |fx s.cfg.fmt cx| < 1 ∧ |fx s.cfg.fmt cy| < 1) ∧
        |value s.cfg.fmt cx - x| ≤ d / 2 ^ s.cfg.fmt.fracBits ∧ |value s.cfg.fmt cy - y| ≤ d / 2 ^ s.cfg.fmt.fracBits)

/-- R199: GETRES at `idle` returns R1 and its value and changes no state of the block; a second one right after returns the
same; it is refused as busy, and as `no_result` before a result is written. -/
def Obligations.GetResReturnsTheResult : Prop :=
  ∀ (s : State) (rest : List Move), s.cfg.wf = true →
    (s.seq ≠ .idle → s.agenda = .command .getRes :: rest → step s = .refused .busy) ∧
    (s.seq = .idle → s.r1.written = false → s.agenda = .command .getRes :: rest → step s = .refused .noResult) ∧
    (s.seq = .idle → s.r1.written = true → s.agenda = .command .getRes :: rest →
      ∃ t, step s = .next t ∧
        t = { s with
          agenda := rest
          reply := some (.result s.r1.cell (s.r1.cell.raw * pow2 (-s.cfg.fmt.fracBits) * pow2 s.r1.cell.scale.toNat *
            s.r1.cell.soft)) } ∧
        ∀ later, rest = .command .getRes :: later → step t = .next { t with agenda := later })

/-- R200, R201: GETRES2 returns R2 and its value and changes no state, refused in the order `busy`, `no_operation`,
`arity`, `no_result`; GETSCALE returns A1.scale and changes no state, refused as busy and as `no_operation` while A1 is
not written. -/
def Obligations.GetRes2AndGetScaleReturn : Prop :=
  ∀ s : State,
    (s.seq ≠ .idle → execCommand .getRes2 s = .refused .busy ∧ execCommand .getScale s = .refused .busy) ∧
    (s.seq = .idle →
      (s.fsel.written = false → execCommand .getRes2 s = .refused .noOperation) ∧
      (s.fsel.written = true → (s.cfg.desc.of s.fsel.func).nres = .one → execCommand .getRes2 s = .refused .arity) ∧
      (s.fsel.written = true → (s.cfg.desc.of s.fsel.func).nres = .two →
        (s.r2.written = false → execCommand .getRes2 s = .refused .noResult) ∧
        (s.r2.written = true → execCommand .getRes2 s =
          .next { s with reply := some (.result s.r2.cell (value s.cfg.fmt s.r2.cell)) })) ∧
      (s.a1.written = false → execCommand .getScale s = .refused .noOperation) ∧
      (s.a1.written = true → execCommand .getScale s = .next { s with reply := some (.scale s.a1.cell.scale) }))

/-- The frame of the commands: none changes the configuration, SEQ, the latches, the engine, the clock enable, the agenda
or the bus log; only CREATE changes FSEL, R1 and R2; only CREATE and the setters change A1 and A2; only the result
commands change the reply (R32). -/
def Obligations.CommandFrame : Prop :=
  ∀ (c : Command) (s t : State), execCommand c s = .next t →
    t.cfg = s.cfg ∧ t.seq = s.seq ∧ t.latch = s.latch ∧ t.engine = s.engine ∧ t.clock = s.clock ∧
      t.cfgField = s.cfgField ∧ t.cfgHeld = s.cfgHeld ∧ t.agenda = s.agenda ∧ t.bus = s.bus ∧
      ((∀ code, c ≠ .create code) → t.fsel = s.fsel ∧ t.r1 = s.r1 ∧ t.r2 = s.r2 ∧
        ((∀ v, c ≠ .setArg1 v ∧ c ≠ .setArg v) → (∀ x y, c ≠ .setVec x y) → t.a1 = s.a1) ∧
        ((∀ v, c ≠ .setArg2 v) → (∀ x y, c ≠ .setVec x y) → t.a2 = s.a2)) ∧
      (c ≠ .getRes → c ≠ .getRes2 → c ≠ .getScale → t.reply = s.reply)

/-- R234: the first command after reset must be CREATE: at `idle` with nothing written, any other command is refused, as
`no_result` if it is GETRES and as `no_operation` else. -/
def Obligations.FirstCommandMustBeCreate : Prop :=
  ∀ (s : State) (c : Command) (rest : List Move), s.cfg.wf = true → s.seq = .idle → s.fsel.written = false →
    s.a1.written = false → s.r1.written = false → s.agenda = .command c :: rest → (∀ code, c ≠ .create code) →
    step s = .refused (if c = .getRes then .noResult else .noOperation)

/-- R96, R124, R125 (decisions D38, D42): the angle pseudo-commands set A1 to the angle of the radians or degrees given,
and SETMOD sets A2 to the modulus, for a function whose arguments are of the UNIT kind. -/
def Obligations.PseudoCommandsSetAnglesAndModulus : Prop :=
  ∀ (s : State) (p : Option Value) (r m : Value) (deg : Int), s.seq = .idle → s.fsel.written = true →
    (s.cfg.desc.of s.fsel.func).args = .two .unit .unit p →
    (∃ c, expand s.cfg (.setAngleRad r) = [c] ∧
      execCommand c s = .next { s with a1 := ⟨angleFromRadians s.cfg r, true⟩ }) ∧
    (∃ c, expand s.cfg (.setAngleDeg deg) = [c] ∧
      execCommand c s = .next { s with a1 := ⟨angleFromDegrees s.cfg deg, true⟩ }) ∧
    (∃ c, expand s.cfg (.setMod m) = [c] ∧ execCommand c s = .next { s with a2 := ⟨modulus s.cfg m, true⟩ })

/-! ### Reset and the invariants -/

/-- R44, R230, R233: after reset SEQ is `idle`, FSEL, A1, A2, R1, R2 are not written, no bus access has been made, and the
block waits; a hardware reset brings any state there and keeps the configuration (R20). That it keeps the clock enable
is the model's choice (log 12). The contents of the registers are the model's choice too (log 3, 4) and no part of
this. -/
def Obligations.ResetLeavesTheBlockIdleAndUnwritten : Prop :=
  (∀ s, s = State.reset ∨ (∃ r, s = hardwareReset r) →
    s.seq = .idle ∧ s.fsel.written = false ∧ s.a1.written = false ∧ s.a2.written = false ∧ s.r1.written = false ∧
      s.r2.written = false ∧ s.bus = []) ∧
    (∀ r, (hardwareReset r).cfg = r.cfg ∧ (hardwareReset r).clock = r.clock) ∧
    step State.reset = .next State.reset

/-- The invariants hold after reset: `Inv` and `BusOrder` at reset, `EngineSync` once the clock is enabled. The values at
reset are the model's choice (log 2, 3, 4). -/
def Obligations.InvariantsHoldAtReset : Prop :=
  State.reset.Inv ∧ State.reset.BusOrder ∧ { State.reset with clock := true }.EngineSync

/-- Every step keeps the invariant of the block: written cells are W-bit integers, the latches of a running transaction
are those of FSEL, A1 and A2, R2 is written only under two results, WR2 and RD2 are reached only under two words. -/
def Obligations.EveryStepKeepsTheInvariant : Prop :=
  ∀ s t : State, s.Inv → step s = .next t → t.Inv

/-- Every step keeps block and engine in step: at each SEQ, RDY and the engine's slot are what the protocol calls for, and
from WR1 to RD2 the control word of the transaction is in force in CSR (R41, R60, R193, R239). -/
def Obligations.EveryStepKeepsTheEngineInStep : Prop :=
  ∀ s t : State, s.Inv → s.EngineSync → step s = .next t → t.EngineSync

/-- R62, R64: every step keeps the order of the bus accesses: CSR write(s), WDATA writes, polls, and an RDATA read only
after a CSR read that returned bit 31 = 1, which comes after every WDATA write. It needs no assumption on the engine. -/
def Obligations.EveryStepKeepsTheBusOrder : Prop :=
  ∀ s t : State, s.Inv → s.BusOrder → step s = .next t → t.BusOrder

/-! ### The numeric functions -/

/-- R116 (decision D4): `rnd` is a nearest integer, and a tie goes away from zero. -/
def Obligations.RoundingIsToNearestAwayFromZero : Prop :=
  ∀ q : Value, |(rnd q : Value) - q| ≤ 1 / 2 ∧ (|(rnd q : Value) - q| = 1 / 2 → |q| < |(rnd q : Value)|)

/-- R114: the lookup returns the first index whose range contains the value, and the last index if no range does. -/
def Obligations.LookupIsFirstContainingElseLast : Prop :=
  ∀ (t : List Range) (v : Value), t ≠ [] →
    findSmallestScaleIndex t v < t.length ∧
    (∀ j, j < findSmallestScaleIndex t v → rangeContains (rangeAt t j) v = false) ∧
    (rangeContains (rangeAt t (findSmallestScaleIndex t v)) v = true ∨
      findSmallestScaleIndex t v = t.length - 1 ∧ ∀ j, j < t.length → rangeContains (rangeAt t j) v = false)

/-- R26, R84, R112, R123: under a legal configuration every encoded value is a W-bit integer with soft scale 1 and a scale
that is an exponent of the kind's table. -/
def Obligations.EncodedCellIsLegal : Prop :=
  ∀ (c : Cfg) (k : Kind) (v : Value), c.wf = true →
    RawInRange c.fmt (encodeValue c k v).raw ∧ (encodeValue c k v).soft = 1 ∧
      ((encodeValue c k v).scale.toNat : Int) ∈ (c.kinds.of k).table.exps

/-- R131: if some range of the table contains `v`, `v · 2^(−e)` lies in the allowed range and step 4 does not saturate,
then the encoded value is within `2^(e − Fr − 1)` of `v`. -/
def Obligations.EncodingRoundTripError : Prop :=
  ∀ (c : Cfg) (k : Kind) (v : Value), c.wf = true →
    let t := (c.kinds.of k).table.ranges
    let e := (rangeAt t (findSmallestScaleIndex t v)).exp
    (∃ r ∈ t, rangeContains r v = true) → (c.kinds.of k).allowedLo ≤ v * pow2 (-e) →
    v * pow2 (-e) ≤ (c.kinds.of k).allowedHi → RawInRange c.fmt (rnd (v * pow2 (-e) * pow2 c.fmt.fracBits)) →
    |fx c.fmt (encodeValue c k v) - v| ≤ pow2 (e - c.fmt.fracBits - 1)

/-- R132 as far as R113 and R114 let it hold: with the default tables of UNIT, ATAN, HYP and ATANH, a value of larger
magnitude never gets a smaller scale; with those of LN and SQRT a larger value never does from the first lower bound on.
For equal magnitudes the half-open ranges break it: 1 gets exponent 1 in the ATAN table and −1 gets 0 (log 30). -/
def Obligations.LargerMagnitudeNeverGetsSmallerScale : Prop :=
  (∀ (c : Cfg) (k : Kind) (v1 v2 : Value), c.kinds = .default → k = .unit ∨ k = .atan ∨ k = .hyp ∨ k = .atanh →
    |v1| < |v2| → (encodeValue c k v1).scale.toNat ≤ (encodeValue c k v2).scale.toNat) ∧
    (∀ (c : Cfg) (v1 v2 : Value), c.kinds = .default → v1 ≤ v2 →
      (107 / 1000 ≤ v1 → (encodeValue c .ln v1).scale.toNat ≤ (encodeValue c .ln v2).scale.toNat) ∧
      (27 / 1000 ≤ v1 → (encodeValue c .sqrt v1).scale.toNat ≤ (encodeValue c .sqrt v2).scale.toNat)) ∧
    ∀ c : Cfg, c.kinds = .default → (encodeValue c .atan 1).scale = 1 ∧ (encodeValue c .atan (-1)).scale = 0

/-- R133: with the default tables a value at or above the last upper bound encodes to the raw of that bound for UNIT, ATAN,
HYP and ATANH; for LN and SQRT this holds from 16 and from 4 on. -/
def Obligations.ValuesAboveTheTableSaturate : Prop :=
  ∀ (c : Cfg) (v : Value), c.kinds = .default →
    (1 ≤ v → (encodeValue c .unit v).raw = rawMax c.fmt) ∧ (128 ≤ v → (encodeValue c .atan v).raw = rawMax c.fmt) ∧
    (1118 / 1000 ≤ v → (encodeValue c .hyp v).raw = (encodeValue c .hyp (1118 / 1000)).raw) ∧
    (806 / 1000 ≤ v → (encodeValue c .atanh v).raw = (encodeValue c .atanh (806 / 1000)).raw) ∧
    (16 ≤ v → (encodeValue c .ln v).raw = rawMax c.fmt) ∧ (4 ≤ v → (encodeValue c .sqrt v).raw = rawMax c.fmt)

/-- R127: angles are not wrapped: with the default UNIT kind an angle of 180 degrees or more encodes as 2^(W−1) − 1 and one
of −180 degrees or less as −2^(W−1). -/
def Obligations.AnglesAreNotWrapped : Prop :=
  ∀ (c : Cfg) (d : Int), c.kinds = .default →
    (180 ≤ d → angleFromDegrees c d = ⟨rawMax c.fmt, 0, 1⟩) ∧ (d ≤ -180 → angleFromDegrees c d = ⟨rawMin c.fmt, 0, 1⟩)

/-- R121, R122 (decision D17): `word_to_raw(raw_to_word(r)) = r` for every raw; in Q1_15 the high half of a result word is
ignored, and an argument word's high half repeats its bit 15. -/
def Obligations.BusWordRoundTrip : Prop :=
  (∀ (f : Fmt) (r : Int), RawInRange f r → wordToRaw f (rawToWord r) = r) ∧
    (∀ w w' : Word, w.extractLsb' 0 16 = w'.extractLsb' 0 16 → wordToRaw .q1_15 w = wordToRaw .q1_15 w') ∧
    ∀ (r : Int) (j : Nat), RawInRange .q1_15 r → 15 ≤ j → j < 32 →
      (rawToWord r).getLsbD j = (rawToWord r).getLsbD 15
end

