-- ==== Sys2Proof/Laws/State.lean ====
section
/-! SUPPORT. One lemma for each field of State under each named update, so that no proof unfolds a record update. -/

namespace Sys2Proof.Machine

variable (s : State)

@[simp] theorem takeMove_cfg : (takeMove s).cfg = s.cfg := rfl
@[simp] theorem takeMove_seq : (takeMove s).seq = s.seq := rfl
@[simp] theorem takeMove_fsel : (takeMove s).fsel = s.fsel := rfl
@[simp] theorem takeMove_a1 : (takeMove s).a1 = s.a1 := rfl
@[simp] theorem takeMove_a2 : (takeMove s).a2 = s.a2 := rfl
@[simp] theorem takeMove_r1 : (takeMove s).r1 = s.r1 := rfl
@[simp] theorem takeMove_r2 : (takeMove s).r2 = s.r2 := rfl
@[simp] theorem takeMove_latch : (takeMove s).latch = s.latch := rfl
@[simp] theorem takeMove_engine : (takeMove s).engine = s.engine := rfl
@[simp] theorem takeMove_clock : (takeMove s).clock = s.clock := rfl
@[simp] theorem takeMove_cfgField : (takeMove s).cfgField = s.cfgField := rfl
@[simp] theorem takeMove_cfgHeld : (takeMove s).cfgHeld = s.cfgHeld := rfl
@[simp] theorem takeMove_agenda : (takeMove s).agenda = s.agenda.tail := rfl
@[simp] theorem takeMove_reply : (takeMove s).reply = s.reply := rfl
@[simp] theorem takeMove_bus : (takeMove s).bus = s.bus := rfl
@[simp] theorem takeMove_draws : (takeMove s).draws = s.draws := rfl

@[simp] theorem accessed_cfg (e : Engine) (x : BusAccess) : (accessed s e x).cfg = s.cfg := rfl
@[simp] theorem accessed_seq (e : Engine) (x : BusAccess) : (accessed s e x).seq = s.seq := rfl
@[simp] theorem accessed_fsel (e : Engine) (x : BusAccess) : (accessed s e x).fsel = s.fsel := rfl
@[simp] theorem accessed_a1 (e : Engine) (x : BusAccess) : (accessed s e x).a1 = s.a1 := rfl
@[simp] theorem accessed_a2 (e : Engine) (x : BusAccess) : (accessed s e x).a2 = s.a2 := rfl
@[simp] theorem accessed_r1 (e : Engine) (x : BusAccess) : (accessed s e x).r1 = s.r1 := rfl
@[simp] theorem accessed_r2 (e : Engine) (x : BusAccess) : (accessed s e x).r2 = s.r2 := rfl
@[simp] theorem accessed_latch (e : Engine) (x : BusAccess) : (accessed s e x).latch = s.latch := rfl
@[simp] theorem accessed_engine (e : Engine) (x : BusAccess) : (accessed s e x).engine = e := rfl
@[simp] theorem accessed_clock (e : Engine) (x : BusAccess) : (accessed s e x).clock = s.clock := rfl
@[simp] theorem accessed_cfgField (e : Engine) (x : BusAccess) : (accessed s e x).cfgField = s.cfgField := rfl
@[simp] theorem accessed_cfgHeld (e : Engine) (x : BusAccess) : (accessed s e x).cfgHeld = s.cfgHeld := rfl
@[simp] theorem accessed_agenda (e : Engine) (x : BusAccess) : (accessed s e x).agenda = s.agenda := rfl
@[simp] theorem accessed_reply (e : Engine) (x : BusAccess) : (accessed s e x).reply = s.reply := rfl
@[simp] theorem accessed_bus (e : Engine) (x : BusAccess) : (accessed s e x).bus = x :: s.bus := rfl
@[simp] theorem accessed_draws (e : Engine) (x : BusAccess) : (accessed s e x).draws = s.draws + 1 := rfl

@[simp] theorem hardwareReset_cfg : (hardwareReset s).cfg = s.cfg := rfl
@[simp] theorem hardwareReset_seq : (hardwareReset s).seq = .idle := rfl
@[simp] theorem hardwareReset_fsel : (hardwareReset s).fsel = ⟨Config.freeFunc s.draws, false⟩ := rfl
@[simp] theorem hardwareReset_a1 : (hardwareReset s).a1 = ⟨Config.freeCell s.draws, false⟩ := rfl
@[simp] theorem hardwareReset_a2 : (hardwareReset s).a2 = ⟨Config.freeCell (s.draws + 1), false⟩ := rfl
@[simp] theorem hardwareReset_r1 : (hardwareReset s).r1 = ⟨Config.freeCell (s.draws + 2), false⟩ := rfl
@[simp] theorem hardwareReset_r2 : (hardwareReset s).r2 = ⟨Config.freeCell (s.draws + 3), false⟩ := rfl
@[simp] theorem hardwareReset_latch : (hardwareReset s).latch = Config.freeLatches s.draws := rfl
@[simp] theorem hardwareReset_engine : (hardwareReset s).engine = engineAfterReset s.draws s.engine := rfl
@[simp] theorem hardwareReset_clock : (hardwareReset s).clock = s.clock := rfl
@[simp] theorem hardwareReset_cfgField : (hardwareReset s).cfgField = .func := rfl
@[simp] theorem hardwareReset_cfgHeld : (hardwareReset s).cfgHeld = none := rfl
@[simp] theorem hardwareReset_agenda : (hardwareReset s).agenda = s.agenda := rfl
@[simp] theorem hardwareReset_reply : (hardwareReset s).reply = s.reply := rfl
@[simp] theorem hardwareReset_bus : (hardwareReset s).bus = [] := rfl
@[simp] theorem hardwareReset_draws : (hardwareReset s).draws = s.draws + 4 := rfl

/-- R41 item 3: the move of a clocked engine. -/
theorem engineMove_on (e1 e2 : Word) (h : s.clock = true) :
    engineMove e1 e2 s = { s with engine := engineFinish e1 e2 s.engine } := by
  simp [engineMove, h]

/-- R236: the move of an unclocked engine (log 10). -/
theorem engineMove_off (e1 e2 : Word) (h : s.clock = false) :
    engineMove e1 e2 s = { s with engine := Config.freeEngine s.draws, draws := s.draws + 1 } := by
  simp [engineMove, h]

@[simp] theorem engineMove_cfg (e1 e2 : Word) : (engineMove e1 e2 s).cfg = s.cfg := by
  unfold engineMove; split <;> rfl
@[simp] theorem engineMove_seq (e1 e2 : Word) : (engineMove e1 e2 s).seq = s.seq := by
  unfold engineMove; split <;> rfl
@[simp] theorem engineMove_fsel (e1 e2 : Word) : (engineMove e1 e2 s).fsel = s.fsel := by
  unfold engineMove; split <;> rfl
@[simp] theorem engineMove_a1 (e1 e2 : Word) : (engineMove e1 e2 s).a1 = s.a1 := by
  unfold engineMove; split <;> rfl
@[simp] theorem engineMove_a2 (e1 e2 : Word) : (engineMove e1 e2 s).a2 = s.a2 := by
  unfold engineMove; split <;> rfl
@[simp] theorem engineMove_r1 (e1 e2 : Word) : (engineMove e1 e2 s).r1 = s.r1 := by
  unfold engineMove; split <;> rfl
@[simp] theorem engineMove_r2 (e1 e2 : Word) : (engineMove e1 e2 s).r2 = s.r2 := by
  unfold engineMove; split <;> rfl
@[simp] theorem engineMove_latch (e1 e2 : Word) : (engineMove e1 e2 s).latch = s.latch := by
  unfold engineMove; split <;> rfl
@[simp] theorem engineMove_clock (e1 e2 : Word) : (engineMove e1 e2 s).clock = s.clock := by
  unfold engineMove; split <;> rfl
@[simp] theorem engineMove_cfgField (e1 e2 : Word) : (engineMove e1 e2 s).cfgField = s.cfgField := by
  unfold engineMove; split <;> rfl
@[simp] theorem engineMove_cfgHeld (e1 e2 : Word) : (engineMove e1 e2 s).cfgHeld = s.cfgHeld := by
  unfold engineMove; split <;> rfl
@[simp] theorem engineMove_agenda (e1 e2 : Word) : (engineMove e1 e2 s).agenda = s.agenda := by
  unfold engineMove; split <;> rfl
@[simp] theorem engineMove_reply (e1 e2 : Word) : (engineMove e1 e2 s).reply = s.reply := by
  unfold engineMove; split <;> rfl
@[simp] theorem engineMove_bus (e1 e2 : Word) : (engineMove e1 e2 s).bus = s.bus := by
  unfold engineMove; split <;> rfl

theorem setClock_true : setClock true s = { s with clock := true } := rfl

theorem setClock_false :
    setClock false s = { s with clock := false, engine := Config.freeEngine s.draws, draws := s.draws + 1 } := rfl

@[simp] theorem setClock_clock (on : Bool) : (setClock on s).clock = on := by cases on <;> rfl
@[simp] theorem setClock_cfg (on : Bool) : (setClock on s).cfg = s.cfg := by cases on <;> rfl
@[simp] theorem setClock_seq (on : Bool) : (setClock on s).seq = s.seq := by cases on <;> rfl
@[simp] theorem setClock_fsel (on : Bool) : (setClock on s).fsel = s.fsel := by cases on <;> rfl
@[simp] theorem setClock_a1 (on : Bool) : (setClock on s).a1 = s.a1 := by cases on <;> rfl
@[simp] theorem setClock_a2 (on : Bool) : (setClock on s).a2 = s.a2 := by cases on <;> rfl
@[simp] theorem setClock_r1 (on : Bool) : (setClock on s).r1 = s.r1 := by cases on <;> rfl
@[simp] theorem setClock_r2 (on : Bool) : (setClock on s).r2 = s.r2 := by cases on <;> rfl
@[simp] theorem setClock_latch (on : Bool) : (setClock on s).latch = s.latch := by cases on <;> rfl
@[simp] theorem setClock_cfgField (on : Bool) : (setClock on s).cfgField = s.cfgField := by cases on <;> rfl
@[simp] theorem setClock_cfgHeld (on : Bool) : (setClock on s).cfgHeld = s.cfgHeld := by cases on <;> rfl
@[simp] theorem setClock_agenda (on : Bool) : (setClock on s).agenda = s.agenda := by cases on <;> rfl
@[simp] theorem setClock_reply (on : Bool) : (setClock on s).reply = s.reply := by cases on <;> rfl
@[simp] theorem setClock_bus (on : Bool) : (setClock on s).bus = s.bus := by cases on <;> rfl

end Sys2Proof.Machine
end

