-- ==== Sys2Proof/Laws/Commands.lean ====
section
/-! SUPPORT. One lemma for each command that says once everything it can do when it answers a next state. -/

namespace Sys2Proof.Machine

open Host (Outcome)

variable {s t : State}

/-- R180. -/
theorem whenIdle_next {k : Outcome State Fault Refusal} (h : whenIdle s k = .next t) : s.seq = .idle ∧ k = .next t := by
  unfold whenIdle at h
  split at h
  · exact ⟨‹_›, h⟩
  · cases h

/-- R214 `no_operation`. -/
theorem whenCreated_next {k : Outcome State Fault Refusal} (h : whenCreated s k = .next t) :
    s.fsel.written = true ∧ k = .next t := by
  unfold whenCreated at h
  split at h
  · exact ⟨‹_›, h⟩
  · cases h

/-- CREATE (R181). -/
theorem createOp_next {code : BitVec 4} (h : createOp code s = .next t) :
    s.seq = .idle ∧ ∃ f, Func.ofCode? code = some f ∧
      t = { s with
        fsel := ⟨f, true⟩
        a1 := ⟨zeroCell, true⟩
        a2 := ⟨presetArg2 s.cfg f, true⟩
        r1 := ⟨Config.freeCell s.draws, false⟩
        r2 := ⟨Config.freeCell (s.draws + 1), false⟩
        draws := s.draws + 2 } := by
  obtain ⟨hq, h⟩ := whenIdle_next h
  split at h
  · cases h
  · injection h with h
    exact ⟨hq, _, ‹_›, h.symm⟩

/-- SETARG1 (R182). -/
theorem setArg1Op_next {v : Value} (h : setArg1Op v s = .next t) :
    s.seq = .idle ∧ s.fsel.written = true ∧ t = { s with a1 := ⟨encodeValue s.cfg (selected s).kind1 v, true⟩ } := by
  obtain ⟨hq, h⟩ := whenIdle_next h
  obtain ⟨hw, h⟩ := whenCreated_next h
  injection h with h
  exact ⟨hq, hw, h.symm⟩

/-- SETARG2 (R183). -/
theorem setArg2Op_next {v : Value} (h : setArg2Op v s = .next t) :
    s.seq = .idle ∧ s.fsel.written = true ∧ ∃ k1 k2 p, (selected s).args = .two k1 k2 p ∧
      t = { s with a2 := ⟨encodeValue s.cfg k2 v, true⟩ } := by
  obtain ⟨hq, h⟩ := whenIdle_next h
  obtain ⟨hw, h⟩ := whenCreated_next h
  split at h
  · cases h
  · injection h with h
    exact ⟨hq, hw, _, _, _, ‹_›, h.symm⟩

/-- SETARG (R184). -/
theorem setArgOp_next {v : Value} (h : setArgOp v s = .next t) :
    s.seq = .idle ∧ s.fsel.written = true ∧ ∃ k1, (selected s).args = .one k1 ∧
      t = { s with a1 := ⟨encodeValue s.cfg k1 v, true⟩ } := by
  obtain ⟨hq, h⟩ := whenIdle_next h
  obtain ⟨hw, h⟩ := whenCreated_next h
  split at h
  · injection h with h
    exact ⟨hq, hw, _, ‹_›, h.symm⟩
  · cases h

/-- SETVEC (R185). -/
theorem setVecOp_next {x y : Value} (h : setVecOp x y s = .next t) :
    s.seq = .idle ∧ s.fsel.written = true ∧ takesVector s.fsel.func = true ∧
      t = { s with
        a1 := ⟨(vec2 s.cfg (selected s).kind1 x y).1, true⟩
        a2 := ⟨(vec2 s.cfg (selected s).kind1 x y).2, true⟩ } := by
  obtain ⟨hq, h⟩ := whenIdle_next h
  obtain ⟨hw, h⟩ := whenCreated_next h
  split at h
  · injection h with h
    exact ⟨hq, hw, ‹_›, h.symm⟩
  · cases h

/-- GETRES (R199). -/
theorem getResOp_next (h : getResOp s = .next t) :
    s.seq = .idle ∧ s.r1.written = true ∧
      t = { s with reply := some (.result s.r1.cell (value s.cfg.fmt s.r1.cell)) } := by
  obtain ⟨hq, h⟩ := whenIdle_next h
  split at h
  · injection h with h
    exact ⟨hq, ‹_›, h.symm⟩
  · cases h

/-- GETRES2 (R200). -/
theorem getRes2Op_next (h : getRes2Op s = .next t) :
    s.seq = .idle ∧ s.fsel.written = true ∧ (selected s).nres = .two ∧ s.r2.written = true ∧
      t = { s with reply := some (.result s.r2.cell (value s.cfg.fmt s.r2.cell)) } := by
  obtain ⟨hq, h⟩ := whenIdle_next h
  obtain ⟨hw, h⟩ := whenCreated_next h
  split at h
  · cases h
  · split at h
    · injection h with h
      exact ⟨hq, hw, ‹_›, ‹_›, h.symm⟩
    · cases h

/-- GETSCALE (R201). -/
theorem getScaleOp_next (h : getScaleOp s = .next t) :
    s.seq = .idle ∧ s.a1.written = true ∧ t = { s with reply := some (.scale s.a1.cell.scale) } := by
  obtain ⟨hq, h⟩ := whenIdle_next h
  split at h
  · injection h with h
    exact ⟨hq, ‹_›, h.symm⟩
  · cases h

end Sys2Proof.Machine
end

