-- ==== Sys2Proof/Laws/Decode.lean ====
section
/-! SUPPORT. The small lemmas of the encoding tables: each bit or code and its reading are inverse, an instruction is its
function and its fields. -/

namespace Sys2Proof

@[simp] theorem ofBit_bit_wordSize (z : WordSize) : WordSize.ofBit z.bit = z := by cases z <;> rfl

@[simp] theorem ofBit_bit_count (n : Count) : Count.ofBit n.bit = n := by cases n <;> rfl

theorem bit_ofBit_wordSize (b : BitVec 1) : (WordSize.ofBit b).bit = b := by
  revert b
  decide

theorem bit_ofBit_count (b : BitVec 1) : (Count.ofBit b).bit = b := by
  revert b
  decide

@[simp] theorem ofCode?_code (f : Func) : Func.ofCode? f.code = some f := by cases f <;> rfl

theorem code_of_ofCode? {c : BitVec 4} {f : Func} (h : Func.ofCode? c = some f) : f.code = c := by
  revert c f
  decide

@[simp] theorem make_func (f : Func) (x : Fields) : (Instr.make f x).func = f := by cases f <;> rfl

@[simp] theorem make_fields (f : Func) (x : Fields) : (Instr.make f x).fields = x := by cases f <;> rfl

theorem make_func_fields (i : Instr) : Instr.make i.func i.fields = i := by cases i <;> rfl

/-- R81: what `wellFormed` checks. -/
theorem wellFormed_iff (i : Instr) : i.wellFormed = true ↔ i.fields.argSize = i.fields.resSize := by
  cases i <;> simp [Instr.wellFormed, Instr.fields]

end Sys2Proof
end

