-- ==== Sys2Proof/Laws/Numeric.lean ====
section
/-! SUPPORT. The numeric operations: powers of two, clamping, rounding and saturation; what the check of a configuration
says. -/

namespace Sys2Proof

/-- R12: `pow2` is the power of two with an integer exponent. -/
theorem pow2_eq_zpow (e : Int) : pow2 e = (2 : Rat) ^ e := by
  cases e with
  | ofNat n => simp [pow2]
  | negSucc n => simp [pow2, Rat.mkRat_eq_div, zpow_negSucc]

theorem pow2_pos (e : Int) : 0 < pow2 e := by
  rw [pow2_eq_zpow]
  positivity

theorem pow2_mul_neg (e : Int) : pow2 e * pow2 (-e) = 1 := by
  rw [pow2_eq_zpow, pow2_eq_zpow, ← zpow_add₀ two_ne_zero, add_neg_cancel, zpow_zero]

theorem pow2_ofNat (n : Nat) : pow2 n = (2 : Rat) ^ n := by
  rw [pow2_eq_zpow, zpow_natCast]

/-- R112 item 2: the check of neighbours says that the exponents ascend strictly. -/
theorem ascending_iff (l : List Int) : ascending l = true ↔ l.Pairwise (· < ·) := by
  induction l with
  | nil => simp [ascending]
  | cons a l ih =>
    cases l with
    | nil => simp [ascending]
    | cons b rest =>
      rw [ascending, Bool.and_eq_true, decide_eq_true_iff, ih, List.pairwise_cons (a := a)]
      constructor
      · rintro ⟨h, hp⟩
        refine ⟨fun x hx => ?_, hp⟩
        rcases List.mem_cons.1 hx with rfl | hx
        · exact h
        · exact h.trans ((List.pairwise_cons.1 hp).1 x hx)
      · rintro ⟨h, hp⟩
        exact ⟨h b (by simp), hp⟩

/-- R110, R111: the exponents of a table are those of its ranges. -/
theorem ScaleTable.ranges_map_exp (t : ScaleTable) : t.ranges.map Range.exp = t.exps := by
  cases t <;> simp [ScaleTable.ranges, ScaleTable.exps, Function.comp_def]

/-- R112 item 4: the check of a table with base bounds says the same as the check of every range. -/
theorem ScaleTable.ordered_iff {t : ScaleTable} (h : t.ranges ≠ []) :
    t.ordered = true ↔ ∀ r ∈ t.ranges, r.lo ≤ r.hi := by
  cases t with
  | bands rs => simp [ScaleTable.ordered, ScaleTable.ranges]
  | scaled lo hi es =>
    simp only [ScaleTable.ordered, ScaleTable.ranges, decide_eq_true_iff, List.mem_map, forall_exists_index, and_imp,
      forall_apply_eq_imp_iff₂]
    constructor
    · exact fun h e _ => mul_le_mul_of_nonneg_right h (pow2_pos e).le
    · cases es with
      | nil => exact absurd rfl h
      | cons e _ => exact fun hh => le_of_mul_le_mul_right (hh e (by simp)) (pow2_pos e)

/-- R112 and R7 for one kind. -/
theorem KindSpec.wf_iff (k : KindSpec) :
    k.wf = true ↔ k.allowedLo ≤ k.allowedHi ∧ k.table.ranges ≠ [] ∧ (k.table.ranges.map Range.exp).Pairwise (· < ·) ∧
      ∀ r ∈ k.table.ranges, 0 ≤ r.exp ∧ r.exp ≤ 7 ∧ r.lo ≤ r.hi := by
  have hn : k.table.exps.isEmpty = false ↔ k.table.ranges ≠ [] := by
    rw [← k.table.ranges_map_exp]
    simp
  have ha : (k.table.exps.all fun e => decide (0 ≤ e) && decide (e ≤ 7)) = true ↔
      ∀ r ∈ k.table.ranges, 0 ≤ r.exp ∧ r.exp ≤ 7 := by
    rw [← k.table.ranges_map_exp]
    simp
  simp only [KindSpec.wf, Bool.and_eq_true, decide_eq_true_iff, Bool.not_eq_true', hn, ascending_iff,
    ScaleTable.ranges_map_exp, ha]
  constructor
  · rintro ⟨h1, h2, h3, h4, h5⟩
    exact ⟨h1, h2, h3, fun r hr => ⟨(h4 r hr).1, (h4 r hr).2, (ScaleTable.ordered_iff h2).1 h5 r hr⟩⟩
  · rintro ⟨h1, h2, h3, h4⟩
    exact ⟨h1, h2, h3, fun r hr => ⟨(h4 r hr).1, (h4 r hr).2.1⟩,
      (ScaleTable.ordered_iff h2).2 fun r hr => (h4 r hr).2.2⟩

theorem KindTable.wf_iff (t : KindTable) : t.wf = true ↔ ∀ k, (t.of k).wf = true := by
  simp only [KindTable.wf, Bool.and_eq_true]
  constructor
  · intro h k
    cases k <;> simp [KindTable.of, h]
  · exact fun h => ⟨h .unit, h .atan, h .hyp, h .atanh, h .ln, h .sqrt⟩

/-- R214 `bad_config`: what a legal configuration is. -/
theorem Cfg.wf_iff (c : Cfg) :
    c.wf = true ↔ c.base.toNat % 4 = 0 ∧ 0 < c.pi ∧ 1 < c.vecMargin ∧ ∀ k, (c.kinds.of k).wf = true := by
  have hb : c.base.extractLsb' 0 2 = 0 ↔ c.base.toNat % 4 = 0 := by
    rw [← BitVec.toNat_inj]
    simp
  simp only [Cfg.wf, Bool.and_eq_true, beq_iff_eq, decide_eq_true_iff, KindTable.wf_iff, hb]

namespace Machine

/-- R13: where a value lies in the interval, clamping does nothing. -/
theorem clamp_of_mem {x lo hi : Value} (h1 : lo ≤ x) (h2 : x ≤ hi) : clamp x lo hi = x := by
  simp [clamp, not_lt.2 h1, not_lt.2 h2]

theorem clamp_of_le {x lo hi : Value} (h : x ≤ lo) (hl : lo ≤ hi) : clamp x lo hi = lo := by
  rcases h.lt_or_eq with h | h
  · simp [clamp, h]
  · subst h
    exact clamp_of_mem le_rfl hl

theorem clamp_of_ge {x lo hi : Value} (h : hi ≤ x) (hl : lo ≤ hi) : clamp x lo hi = hi := by
  rcases h.lt_or_eq with h | h
  · simp [clamp, h, not_lt.2 (hl.trans h.le)]
  · subst h
    exact clamp_of_mem hl le_rfl

theorem clamp_mem {x lo hi : Value} (hl : lo ≤ hi) : lo ≤ clamp x lo hi ∧ clamp x lo hi ≤ hi := by
  unfold clamp
  split
  · exact ⟨le_rfl, hl⟩
  · split
    · exact ⟨hl, le_rfl⟩
    · exact ⟨not_lt.1 ‹_›, not_lt.1 ‹_›⟩

/-- The floor of a rational between an integer and the next one. -/
theorem floor_eq {q : Rat} {n : Int} (h1 : (n : Rat) ≤ q) (h2 : q < n + 1) : q.floor = n := by
  apply le_antisymm
  · have : q.floor < n + 1 := Rat.floor_lt_iff.2 (by push_cast; exact h2)
    omega
  · exact Rat.le_floor_iff.2 h1

/-- R116: an integer rounds to itself. -/
theorem rnd_intCast (n : Int) : rnd (n : Rat) = n := by
  unfold rnd
  split
  · rw [floor_eq (n := -n) (by push_cast; linarith) (by push_cast; linarith), neg_neg]
  · exact floor_eq (by linarith) (by linarith)

theorem rawMin_le_rawMax (f : Fmt) : rawMin f ≤ rawMax f := by
  cases f <;> decide

theorem satW_mem (f : Fmt) (n : Int) : rawMin f ≤ satW f n ∧ satW f n ≤ rawMax f := by
  have := rawMin_le_rawMax f
  unfold satW
  split <;> [skip; split] <;> omega

theorem satW_of_mem {f : Fmt} {n : Int} (h1 : rawMin f ≤ n) (h2 : n ≤ rawMax f) : satW f n = n := by
  unfold satW
  rw [if_neg (by omega), if_neg (by omega)]

end Machine

end Sys2Proof
end

