-- ==== Sys2Proof/Laws/Ops.lean ====
section
/-! SUPPORT. One lemma for each shared operation that says once everything it can do; the bus primitives at the three
registers; the inversion of `exec` and of `step`. -/

namespace Sys2Proof.Machine

open Host (Outcome)

theorem wdata_ne_csr (c : Cfg) : wdataAddr c ≠ csrAddr c := by
  unfold wdataAddr csrAddr
  bv_omega

theorem rdata_ne_csr (c : Cfg) : rdataAddr c ≠ csrAddr c := by
  unfold rdataAddr csrAddr
  bv_omega

theorem rdata_ne_wdata (c : Cfg) : rdataAddr c ≠ wdataAddr c := by
  unfold rdataAddr wdataAddr
  bv_omega

/-- A CSR write (R57, R41 item 1). -/
theorem memWrite_csr (w : Word) (s : State) :
    memWrite (csrAddr s.cfg) w s =
      .next (accessed s (clockedEngine s (engineWriteCsr w s.engine)) (.write (csrAddr s.cfg) w)) := by
  simp [memWrite]

/-- A WDATA write (R57, R41 item 2). -/
theorem memWrite_wdata (w : Word) (s : State) :
    memWrite (wdataAddr s.cfg) w s =
      .next (accessed s (clockedEngine s (engineWriteData s.draws w s.engine)) (.write (wdataAddr s.cfg) w)) := by
  simp [memWrite, wdata_ne_csr]

/-- A CSR read (R57, R41 item 4). -/
theorem memRead_csr (s : State) :
    memRead (csrAddr s.cfg) s =
      .next ((clockedRead s (engineReadCsr s.engine, s.engine)).1,
        accessed s (clockedRead s (engineReadCsr s.engine, s.engine)).2
          (.read (csrAddr s.cfg) (clockedRead s (engineReadCsr s.engine, s.engine)).1)) := by
  simp [memRead]

/-- An RDATA read (R57, R41 item 5). -/
theorem memRead_rdata (s : State) :
    memRead (rdataAddr s.cfg) s =
      .next ((clockedRead s (engineReadData s.cfg s.draws s.engine)).1,
        accessed s (clockedRead s (engineReadData s.cfg s.draws s.engine)).2
          (.read (rdataAddr s.cfg) (clockedRead s (engineReadData s.cfg s.draws s.engine)).1)) := by
  simp [memRead, rdata_ne_csr, rdata_ne_wdata]

theorem clockedEngine_on {s : State} (h : s.clock = true) (e : Engine) : clockedEngine s e = e := by
  simp [clockedEngine, h]

theorem clockedRead_on {s : State} (h : s.clock = true) (x : Word × Engine) : clockedRead s x = x := by
  simp [clockedRead, h]

/-- R41 item 2: what a WDATA write within the contract keeps of the engine. -/
theorem engineWriteData_frame (n : Nat) (w : Word) {e : Engine} (h : e.slot ≠ .computing) :
    let t := engineWriteData n w e
    t.csr = e.csr ∧ t.res1 = e.res1 ∧ t.res2 = e.res2 ∧
      (e.slot = .collecting → t.arg1 = e.arg1 ∧ t.erdy = e.erdy) ∧ (e.slot ≠ .collecting → t.arg2 = e.arg2) := by
  unfold engineWriteData
  cases hs : e.slot <;> simp_all <;> split <;> simp

/-- R41 item 5: what an RDATA read within the contract keeps of the engine. -/
theorem engineReadData_frame (c : Cfg) (n : Nat) {e : Engine} (h : countsMatch c e = true)
    (hs : e.slot = .ready0 ∨ e.slot = .ready1) :
    let t := (engineReadData c n e).2
    t.csr = e.csr ∧ t.arg1 = e.arg1 ∧ t.arg2 = e.arg2 ∧ t.res1 = e.res1 ∧ t.res2 = e.res2 := by
  unfold engineReadData
  rw [if_pos h]
  rcases hs with hs | hs <;> rw [hs]
  · dsimp only
    split <;> simp
  · simp

/-- Every instruction is the shared transaction with its function and its fields. -/
theorem exec_eq_runCalc (i : Instr) (s : State) : exec i s = runCalc i.func i.fields s := by
  cases i <;> rfl

/-- An acceptance that answers a next state (R186). -/
theorem acceptCalc_next {f : Func} {s t : State} (h : acceptCalc f s = .next t) :
    s.fsel.written = true ∧ s.a1.written = true ∧ ((s.cfg.desc.of f).nargs = .two → s.a2.written = true) ∧
      s.clock = true ∧
      t = { s with
        seq := .cfg
        latch := ⟨f.code, (s.cfg.desc.of f).nargs, (s.cfg.desc.of f).nres, s.a1.cell.scale,
          rawToWord s.a1.cell.raw, rawToWord s.a2.cell.raw⟩
        engine := engineAtAcceptance s.draws s.engine
        cfgField := .func
        cfgHeld := none
        bus := []
        draws := s.draws + 1 } := by
  unfold acceptCalc at h
  dsimp only at h
  split at h
  · rename_i hw
    split at h
    · rename_i hc
      injection h with h
      simp only [Bool.and_eq_true, Bool.or_eq_true, beq_iff_eq] at hw
      refine ⟨hw.1.1, hw.1.2, fun h2 => ?_, hc, h.symm⟩
      rcases hw.2 with h1 | h1
      · rw [h1] at h2
        cases h2
      · exact h1
    · cases h
  · cases h

/-- The control write (R193): it always answers a next state. -/
theorem writeControl_eq (w : Word) (s : State) :
    writeControl w s =
      match s.cfg.csrWriteMode with
      | .single =>
        .next { accessed s (clockedEngine s (engineWriteCsr w s.engine)) (.write (csrAddr s.cfg) w) with seq := .wr1 }
      | .perField =>
        match s.cfgHeld with
        | none =>
          .next { accessed s (clockedRead s (engineReadCsr s.engine, s.engine)).2
              (.read (csrAddr s.cfg) (clockedRead s (engineReadCsr s.engine, s.engine)).1) with
            cfgHeld := some (clockedRead s (engineReadCsr s.engine, s.engine)).1 }
        | some r =>
          let t := accessed s (clockedEngine s (engineWriteCsr (fieldUpdate s.cfgField r w) s.engine))
            (.write (csrAddr s.cfg) (fieldUpdate s.cfgField r w))
          match s.cfgField.after with
          | some g => .next { t with cfgHeld := none, cfgField := g }
          | none => .next { t with cfgHeld := none, cfgField := .func, seq := .wr1 } := by
  unfold writeControl
  cases s.cfg.csrWriteMode
  · simp [memWrite_csr, andThen]
  · cases s.cfgHeld
    · simp [memRead_csr, andThen]
    · cases s.cfgField.after <;> simp [memWrite_csr, andThen]

/-- Step 7, argument 1 (R194). -/
theorem writeArg1_eq (s : State) :
    writeArg1 s = .next { accessed s (clockedEngine s (engineWriteData s.draws s.latch.lw1 s.engine))
        (.write (wdataAddr s.cfg) s.latch.lw1) with
      seq := afterArg1 s.latch.ln } := by
  simp [writeArg1, memWrite_wdata, andThen]

/-- Step 7, argument 2 (R194). -/
theorem writeArg2_eq (s : State) :
    writeArg2 s = .next { accessed s (clockedEngine s (engineWriteData s.draws s.latch.lw2 s.engine))
        (.write (wdataAddr s.cfg) s.latch.lw2) with seq := .poll } := by
  simp [writeArg2, memWrite_wdata, andThen]

/-- Step 8 (R195). -/
theorem pollReady_eq (s : State) :
    pollReady s = .next { accessed s (clockedRead s (engineReadCsr s.engine, s.engine)).2
        (.read (csrAddr s.cfg) (clockedRead s (engineReadCsr s.engine, s.engine)).1) with
      seq := if rdy (clockedRead s (engineReadCsr s.engine, s.engine)).1 then .rd1 else .poll } := by
  simp [pollReady, memRead_csr, andThen]

/-- Step 9, the primary result (R196). -/
theorem readResult1_eq (f : Func) (s : State) :
    readResult1 f s = .next { accessed s (clockedRead s (engineReadData s.cfg s.draws s.engine)).2
        (.read (rdataAddr s.cfg) (clockedRead s (engineReadData s.cfg s.draws s.engine)).1) with
      r1 := ⟨cellFromWord s.cfg.fmt (clockedRead s (engineReadData s.cfg s.draws s.engine)).1 s.latch.ls
        ((s.cfg.desc.of f).post1.value s.cfg.pi), true⟩
      seq := afterResult1 s.latch.lr } := by
  simp [readResult1, memRead_rdata, andThen]

/-- Step 9, the secondary result (R196). -/
theorem readResult2_eq (f : Func) (s : State) :
    readResult2 f s = .next { accessed s (clockedRead s (engineReadData s.cfg s.draws s.engine)).2
        (.read (rdataAddr s.cfg) (clockedRead s (engineReadData s.cfg s.draws s.engine)).1) with
      r2 := ⟨cellFromWord s.cfg.fmt (clockedRead s (engineReadData s.cfg s.draws s.engine)).1 s.latch.ls
        ((s.cfg.desc.of f).post2.value s.cfg.pi), true⟩
      seq := .idle } := by
  simp [readResult2, memRead_rdata, andThen]

/-- RDY as a CSR read shows it (R35, R41 item 4). -/
@[simp] theorem rdy_engineReadCsr (e : Engine) : rdy (engineReadCsr e) = e.erdy := by
  unfold rdy engineReadCsr
  cases e.erdy <;> simp

/-- What one step can do when it answers a next state: one case for each action. -/
theorem step_next {s t : State} (h : step s = .next t) :
    s.cfg.wf = true ∧
    ((∃ i, nextAction s = .run i ∧ exec i (takeMove s) = .next t) ∨
      (∃ c, nextAction s = .command c ∧ execCommand c (takeMove s) = .next t) ∨
      (∃ e1 e2, nextAction s = .engine e1 e2 ∧ t = engineMove e1 e2 (takeMove s)) ∨
      (∃ on, nextAction s = .clock on ∧ t = setClock on (takeMove s)) ∨
      (nextAction s = .reset ∧ t = hardwareReset (takeMove s)) ∨
      (nextAction s = .wait ∧ t = takeMove s)) := by
  unfold step at h
  constructor
  · by_contra hw
    simp [nextAction, hw, perform] at h
  · cases hA : nextAction s <;> rw [hA] at h <;> simp only [perform, reduceCtorEq, Outcome.next.injEq] at h
    case run i => exact .inl ⟨i, rfl, h⟩
    case command c => exact .inr (.inl ⟨c, rfl, h⟩)
    case engine e1 e2 => exact .inr (.inr (.inl ⟨e1, e2, rfl, h.symm⟩))
    case clock on => exact .inr (.inr (.inr (.inl ⟨on, rfl, h.symm⟩)))
    case reset => exact .inr (.inr (.inr (.inr (.inl ⟨rfl, h.symm⟩))))
    case wait => exact .inr (.inr (.inr (.inr (.inr ⟨rfl, h.symm⟩))))

end Sys2Proof.Machine
end

