-- ==== Sys2Proof/Laws/PerInstr.lean ====
section
/-! SUPPORT. The facts said of every instruction as syntax, one lemma for each constructor. -/

namespace Sys2Proof.Laws.FuncField

/-- R86, R187: under any descriptor table the FUNC field of an instruction's control word is the opcode of its function. -/
def Statement (i : Instr) : Prop := ∀ d : DescTable, (encode d i).extractLsb' 0 4 = i.func.code

/-- The low four bits of a control word are the opcode it was given. -/
theorem csrWord_low (a r : WordSize) (na nr : Count) (sc : BitVec 3) (p c : BitVec 4) :
    (csrWord a r na nr sc p c).extractLsb' 0 4 = c := by
  unfold csrWord
  exact BitVec.extractLsb'_append_eq_right

theorem calcCos (a r : WordSize) (sc : BitVec 3) (p : BitVec 4) : Statement (.calcCos a r sc p) := fun _ => csrWord_low ..

theorem calcSin (a r : WordSize) (sc : BitVec 3) (p : BitVec 4) : Statement (.calcSin a r sc p) := fun _ => csrWord_low ..

theorem calcPhase (a r : WordSize) (sc : BitVec 3) (p : BitVec 4) : Statement (.calcPhase a r sc p) := fun _ => csrWord_low ..

theorem calcMod (a r : WordSize) (sc : BitVec 3) (p : BitVec 4) : Statement (.calcMod a r sc p) := fun _ => csrWord_low ..

theorem calcAtan (a r : WordSize) (sc : BitVec 3) (p : BitVec 4) : Statement (.calcAtan a r sc p) := fun _ => csrWord_low ..

theorem calcCosh (a r : WordSize) (sc : BitVec 3) (p : BitVec 4) : Statement (.calcCosh a r sc p) := fun _ => csrWord_low ..

theorem calcSinh (a r : WordSize) (sc : BitVec 3) (p : BitVec 4) : Statement (.calcSinh a r sc p) := fun _ => csrWord_low ..

theorem calcAtanh (a r : WordSize) (sc : BitVec 3) (p : BitVec 4) : Statement (.calcAtanh a r sc p) := fun _ => csrWord_low ..

theorem calcLn (a r : WordSize) (sc : BitVec 3) (p : BitVec 4) : Statement (.calcLn a r sc p) := fun _ => csrWord_low ..

theorem calcSqrt (a r : WordSize) (sc : BitVec 3) (p : BitVec 4) : Statement (.calcSqrt a r sc p) := fun _ => csrWord_low ..

end Sys2Proof.Laws.FuncField
end

