-- ==== Sys2Proof/Laws/Step.lean ====
section
/-! SUPPORT. What the machine does next: where each action comes from; runs of several steps. -/

namespace Sys2Proof.Machine

variable {s : State}

@[simp] theorem fetch_takeMove : fetch (takeMove s) = fetch s := rfl

theorem runFetched_eq {i : Instr} (h : runFetched s = .run i) : fetch s = .ok i := by
  unfold runFetched at h
  split at h
  · injection h with h
    subst h
    assumption
  · cases h

/-- Running the instruction fetched, or refusing, is all the fetch leads to. -/
theorem runFetched_cases (s : State) : (∃ i, runFetched s = .run i) ∨ runFetched s = .refuse .noInstruction := by
  unfold runFetched
  split
  · exact .inl ⟨_, rfl⟩
  · exact .inr rfl

/-- The sequencer's turn. -/
theorem sequencerTurn_cases (s : State) :
    sequencerTurn s = .wait ∧ s.seq = .idle ∨ sequencerTurn s = runFetched s ∧ s.seq ≠ .idle := by
  unfold sequencerTurn
  split
  · exact .inl ⟨rfl, ‹_›⟩
  · exact .inr ⟨rfl, ‹_›⟩

/-- Everything the next action can be: a refusal, an instruction that was fetched, a wait, or the head of the agenda. -/
theorem nextAction_cases (s : State) :
    (∃ r, nextAction s = .refuse r) ∨ (∃ i, nextAction s = .run i ∧ fetch s = .ok i) ∨ nextAction s = .wait ∨
      (∃ c r, nextAction s = .command c ∧ s.agenda = .command c :: r) ∨
      (∃ e1 e2 r, nextAction s = .engine e1 e2 ∧ s.agenda = .engine e1 e2 :: r) ∨
      (∃ on r, nextAction s = .clock on ∧ s.agenda = .clock on :: r) ∨
      (∃ r, nextAction s = .reset ∧ s.agenda = .reset :: r) := by
  have fetched : ∀ a, runFetched s = a → (∃ r, a = .refuse r) ∨ ∃ i, a = .run i ∧ fetch s = .ok i := by
    rintro a rfl
    rcases runFetched_cases s with ⟨i, h⟩ | h
    · exact .inr ⟨i, h, runFetched_eq h⟩
    · exact .inl ⟨_, h⟩
  have turn : ∀ a, sequencerTurn s = a → (∃ r, a = .refuse r) ∨ (∃ i, a = .run i ∧ fetch s = .ok i) ∨ a = .wait := by
    rintro a rfl
    rcases sequencerTurn_cases s with ⟨h, -⟩ | ⟨h, -⟩
    · exact .inr (.inr h)
    · exact (fetched _ h.symm).imp_right .inl
  generalize ha : nextAction s = a
  unfold nextAction at ha
  split at ha
  · split at ha
    · exact (turn a ha).imp_right fun h => h.imp_right .inl
    · exact (turn a ha).imp_right fun h => h.imp_right .inl
    · split at ha
      · exact (fetched a ha).imp_right .inl
      · exact .inl ⟨_, ha.symm⟩
    all_goals simp_all
  · exact .inl ⟨_, ha.symm⟩

/-- A run of one step more. -/
theorem run_succ (n : Nat) {s t : State} (h : step s = .next t) :
    Sys2Proof.core.run (n + 1) s = Sys2Proof.core.run n t := by
  have general : ∀ (M : Host.Core) (x y : M.State), M.step x = .next y → M.run (n + 1) x = M.run n y := by
    intro M x y hxy
    rw [Host.Core.run, hxy]
  exact general Sys2Proof.core s t h

/-- Runs are composed. -/
theorem run_add (a b : Nat) {s t : State} (h : Sys2Proof.core.run a s = .next t) :
    Sys2Proof.core.run (a + b) s = Sys2Proof.core.run b t := by
  have general : ∀ (a : Nat) (M : Host.Core) (x y : M.State), M.run a x = .next y → M.run (a + b) x = M.run b y := by
    intro a M
    induction a with
    | zero =>
      intro x y hxy
      rw [Host.Core.run] at hxy
      injection hxy with hxy
      rw [hxy, Nat.zero_add]
    | succ a ih =>
      intro x y hxy
      rw [show a + 1 + b = (a + b) + 1 by omega]
      rw [Host.Core.run] at hxy ⊢
      split at hxy
      · exact ih _ _ hxy
      · cases hxy
      · cases hxy
  exact general a Sys2Proof.core s t h

end Sys2Proof.Machine
end

