-- ==== Sys2Proof/Tests/Slice0.lean ====
section
/-! SUPPORT. Tests: the WellFormed smoke, decoding of words written from R80 and 95_test_vectors.md, the encoder's and the
decoder's vectors, one step at a time of each instruction, and for each obligation with hypotheses a state and operands
that meet them. Every expected value is one of 95_test_vectors.md or worked by hand from the rule named. -/

namespace Sys2Proof.Tests.Slice0

open Sys2Proof Sys2Proof.Machine

/-! ### WellFormed -/

/-- R81: ARGSIZE and RESSIZE that differ are refused, in every constructor. -/
theorem test_wellFormed_refuses_unequal_sizes :
    (Instr.calcCos .bits16 .bits32 0 6).wellFormed = false ∧ (Instr.calcSin .bits32 .bits16 0 6).wellFormed = false ∧
      (Instr.calcPhase .bits16 .bits32 0 6).wellFormed = false ∧ (Instr.calcMod .bits32 .bits16 0 6).wellFormed = false ∧
      (Instr.calcAtan .bits16 .bits32 7 0).wellFormed = false ∧ (Instr.calcCosh .bits32 .bits16 1 6).wellFormed = false ∧
      (Instr.calcSinh .bits16 .bits32 1 6).wellFormed = false ∧ (Instr.calcAtanh .bits32 .bits16 1 6).wellFormed = false ∧
      (Instr.calcLn .bits16 .bits32 4 6).wellFormed = false ∧ (Instr.calcSqrt .bits32 .bits16 2 6).wellFormed = false := by
  decide

theorem test_wellFormed_accepts_equal_sizes :
    (Instr.calcCos .bits16 .bits16 0 6).wellFormed = true ∧ (Instr.calcSqrt .bits32 .bits32 2 15).wellFormed = true := by
  decide

/-! ### Decode: the words of 95_test_vectors.md 2.11 -/

theorem test_decode_calcCos : decode .default 0x00180060 = .ok (.calcCos .bits32 .bits32 0 6) := by decide

theorem test_decode_calcSin : decode .default 0x00780061 = .ok (.calcSin .bits16 .bits16 0 6) := by decide

theorem test_decode_calcPhase : decode .default 0x00180062 = .ok (.calcPhase .bits32 .bits32 0 6) := by decide

theorem test_decode_calcMod : decode .default 0x00780063 = .ok (.calcMod .bits16 .bits16 0 6) := by decide

theorem test_decode_calcAtan : decode .default 0x00000264 = .ok (.calcAtan .bits32 .bits32 2 6) := by decide

theorem test_decode_calcCosh : decode .default 0x00600165 = .ok (.calcCosh .bits16 .bits16 1 6) := by decide

theorem test_decode_calcSinh : decode .default 0x00000166 = .ok (.calcSinh .bits32 .bits32 1 6) := by decide

theorem test_decode_calcAtanh : decode .default 0x00600167 = .ok (.calcAtanh .bits16 .bits16 1 6) := by decide

theorem test_decode_calcLn : decode .default 0x00000468 = .ok (.calcLn .bits32 .bits32 4 6) := by decide

theorem test_decode_calcSqrt : decode .default 0x006007F9 = .ok (.calcSqrt .bits16 .bits16 7 15) := by decide

/-- R80 bit by bit: ARGSIZE alone is bit 22 and RESSIZE alone bit 21 (log 15). -/
theorem test_decode_size_bits :
    decode .default 0b00000000010000000000000001100100 = .ok (.calcAtan .bits16 .bits32 0 6) ∧
      decode .default 0b00000000001000000000000001100100 = .ok (.calcAtan .bits32 .bits16 0 6) := by decide

/-- R88, R89, R83, R92, R82: every reason the decoder rejects a word for. -/
theorem test_decode_rejects_by_name :
    decode .default 0x80180060 = .error .reservedBits ∧ decode .default 0x00980060 = .error .reservedBits ∧
      decode .default 0x00180860 = .error .reservedBits ∧ decode .default 0x00190060 = .error .channelsEnabled ∧
      decode .default 0x0018006A = .error .unknownFunction ∧ decode .default 0x0008006F = .error .unknownFunction ∧
      decode .default 0x00000060 = .error .wrongCounts ∧ decode .default 0x00180064 = .error .wrongCounts := by decide

theorem test_encode_words :
    encode .default (.calcCos .bits32 .bits32 0 15) = 0x001800F0 ∧
      encode .default (.calcAtan .bits32 .bits32 7 0) = 0x00000704 ∧
      encode .default (.calcCosh .bits32 .bits32 0 6) = 0x00000065 := by decide

theorem test_decodeTableWord_width :
    decodeTableWord 32 0x00000269 = some (.calcSqrt .bits32 .bits32 2 6) ∧ decodeTableWord 32 0x100000269 = none ∧
      decodeTableWord 16 0x0269 = none ∧ decodeTableWord 11 0x264 = none := by
  decide

/-! ### The numeric functions: 95_test_vectors.md 2.1 to 2.10 -/

/-- The default configuration in format `f`. -/
def cfgOf (f : Fmt) : Cfg := { Cfg.reset with fmt := f }

/-- Section 2.1 and R116: ties go away from zero. -/
theorem test_rnd_ties :
    rnd (1 / 2) = 1 ∧ rnd (-1 / 2) = -1 ∧ rnd (3 / 2) = 2 ∧ rnd (1 / 4) = 0 ∧ rnd (-3 / 4) = -1 := by decide +kernel

/-- Section 2.1. -/
theorem test_encode_unit :
    encodeValue (cfgOf .q1_15) .unit (1 / 20) = ⟨1638, 0, 1⟩ ∧ encodeValue (cfgOf .q1_31) .unit (1 / 20) = ⟨107374182, 0, 1⟩ ∧
      encodeValue (cfgOf .q1_15) .unit 1 = ⟨32767, 0, 1⟩ ∧ encodeValue (cfgOf .q1_15) .unit (-1) = ⟨-32768, 0, 1⟩ ∧
      encodeValue (cfgOf .q1_15) .unit (-3 / 2) = ⟨-32768, 0, 1⟩ := by decide +kernel

/-- Section 2.2. -/
theorem test_angles :
    angleFromDegrees (cfgOf .q1_15) 30 = ⟨5461, 0, 1⟩ ∧ angleFromDegrees (cfgOf .q1_31) 270 = ⟨2147483647, 0, 1⟩ ∧
      angleFromDegrees (cfgOf .q1_31) (-180) = ⟨-2147483648, 0, 1⟩ ∧
      angleFromRadians (cfgOf .q1_15) 1 = ⟨10430, 0, 1⟩ ∧ modulus (cfgOf .q1_31) 1 = ⟨2147483647, 0, 1⟩ := by
  decide +kernel

/-- S2: 180 degrees read back in radians (R126). -/
theorem test_radians :
    radians (cfgOf .q1_31) ⟨2147483647, 0, 1⟩ = 2147483647 / 2147483648 * (884279719003555 / 281474976710656) := by
  decide +kernel

/-- Section 2.3 and S4. -/
theorem test_vec2 :
    vec2 (cfgOf .q1_15) .unit (-5) (-7) = (⟨-20353, 0, 161 / 20⟩, ⟨-28494, 0, 161 / 20⟩) ∧
      vec2 (cfgOf .q1_15) .unit (3 / 10) (4 / 10) = (⟨9830, 0, 1⟩, ⟨13107, 0, 1⟩) ∧
      vec2 (cfgOf .q1_31) .unit 1 0 = (⟨1867377085, 0, 23 / 20⟩, ⟨0, 0, 23 / 20⟩) := by decide +kernel

/-- Section 2.4. -/
theorem test_encode_atan :
    encodeValue (cfgOf .q1_15) .atan 1 = ⟨16384, 1, 1⟩ ∧ encodeValue (cfgOf .q1_15) .atan (-1) = ⟨-32768, 0, 1⟩ ∧
      encodeValue (cfgOf .q1_15) .atan 100 = ⟨25600, 7, 1⟩ ∧ encodeValue (cfgOf .q1_15) .atan 128 = ⟨32767, 7, 1⟩ ∧
      encodeValue (cfgOf .q1_15) .atan (-128) = ⟨-32768, 7, 1⟩ := by decide +kernel

/-- Sections 2.5 and 2.6. -/
theorem test_encode_hyperbolic :
    encodeValue (cfgOf .q1_15) .hyp 0 = ⟨0, 1, 1⟩ ∧ encodeValue (cfgOf .q1_15) .hyp (-2) = ⟨-18317, 1, 1⟩ ∧
      encodeValue (cfgOf .q1_31) .hyp (6 / 5) = ⟨1200443359, 1, 1⟩ ∧
      encodeValue (cfgOf .q1_15) .atanh (9 / 10) = ⟨13206, 1, 1⟩ ∧
      encodeValue (cfgOf .q1_15) .atanh (-3 / 10) = ⟨-4915, 1, 1⟩ := by decide +kernel

/-- Section 2.7. -/
theorem test_encode_ln :
    encodeValue (cfgOf .q1_15) .ln (1 / 20) = ⟨102, 4, 1⟩ ∧ encodeValue (cfgOf .q1_15) .ln (107 / 1000) = ⟨1753, 1, 1⟩ ∧
      encodeValue (cfgOf .q1_15) .ln 1 = ⟨8192, 2, 1⟩ ∧ encodeValue (cfgOf .q1_15) .ln (935 / 100) = ⟨19149, 4, 1⟩ ∧
      encodeValue (cfgOf .q1_15) .ln 12 = ⟨24576, 4, 1⟩ ∧ encodeValue (cfgOf .q1_15) .ln 16 = ⟨32767, 4, 1⟩ := by
  decide +kernel

/-- Section 2.8. -/
theorem test_encode_sqrt :
    encodeValue (cfgOf .q1_15) .sqrt (1 / 100) = ⟨82, 2, 1⟩ ∧ encodeValue (cfgOf .q1_15) .sqrt (3 / 4) = ⟨12288, 1, 1⟩ ∧
      encodeValue (cfgOf .q1_15) .sqrt 2 = ⟨16384, 2, 1⟩ ∧ encodeValue (cfgOf .q1_15) .sqrt (-1) = ⟨-8192, 2, 1⟩ := by
  decide +kernel

/-- R115 (decision D23). -/
theorem test_rangeForScale :
    rangeForScale KindTable.default.ln.table.ranges 3 = ⟨3, 7, 3⟩ ∧
      rangeForScale KindTable.default.ln.table.ranges 0 = ⟨7, 187 / 20, 4⟩ := by decide +kernel

/-- Section 2.9. -/
theorem test_bus_words :
    wordToRaw .q1_15 0x12348000 = -32768 ∧ wordToRaw .q1_31 0x12348000 = 305430528 ∧ wordToRaw .q1_15 0x0000FFFF = -1 ∧
      wordToRaw .q1_31 0xABCD7FFF = -1412595713 ∧ rawToWord (-32768) = 0xFFFF8000 ∧
      rawToWord (-2147483648) = 0x80000000 := by decide

/-- Section 2.10. -/
theorem test_value :
    value .q1_15 ⟨11585, 2, 1⟩ = 11585 / 8192 ∧ value .q1_15 ⟨-5678, 1, 2⟩ = -5678 / 8192 ∧
      fx .q1_31 ⟨-1333840775, 0, 161 / 20⟩ = -1333840775 / 2147483648 := by decide +kernel

/-! ### One step of each instruction: the programs of 95_test_vectors.md section 3 -/

/-- An operation of `f` in format `fmt` with arguments `x` and `y`, at `idle`, the peripheral clocked and idle. -/
def created (f : Func) (fmt : Fmt) (x y : Cell) : State :=
  { State.reset with cfg := cfgOf fmt, fsel := ⟨f, true⟩, a1 := ⟨x, true⟩, a2 := ⟨y, true⟩, clock := true }

/-- The same with its transaction at `q`, the engine's slot at `slot` with RDY `r` and the words `e1`, `e2`. -/
def during (f : Func) (fmt : Fmt) (x y : Cell) (q : Machine.Seq) (slot : Slot) (r : Bool) (e1 e2 : Word) : State :=
  let s := { created f fmt x y with latch := calledLatches (created f fmt x y), seq := q }
  { s with engine := ⟨(latchedWord s).extractLsb' 0 23, r, slot, s.latch.lw1, s.latch.lw2, e1, e2⟩ }

/-- The outcome is a next state of which `p` holds. -/
def nextWith (o : Host.Outcome State Fault Refusal) (p : State → Bool) : Bool :=
  match o with
  | .next t => p t
  | .fault _ => false
  | .refused _ => false

/-- The outcome is the refusal `r`. -/
def refusedAs (o : Host.Outcome State Fault Refusal) (r : Refusal) : Bool :=
  match o with
  | .next _ => false
  | .fault _ => false
  | .refused r' => r' == r

/-- P1, step 4. -/
theorem test_calcCos_accepted :
    nextWith (exec (.calcCos .bits32 .bits32 0 6) (created .cos .q1_31 ⟨1073741824, 0, 1⟩ ⟨2147483647, 0, 1⟩)) (fun t =>
      t.seq == .cfg && t.latch == ⟨0, .two, .two, 0, 0x40000000, 0x7FFFFFFF⟩ && t.bus == []) = true := by decide

/-- P1: the second result word is R2, with the soft scale 1. -/
theorem test_calcCos_second_result :
    nextWith (exec (.calcCos .bits32 .bits32 0 6)
      (during .cos .q1_31 ⟨1073741824, 0, 1⟩ ⟨2147483647, 0, 1⟩ .rd2 .ready1 true 0 0x7FFFFFFF)) (fun t =>
      t.seq == .idle && t.r2 == ⟨⟨2147483647, 0, 1⟩, true⟩ && t.engine.slot == .empty && !t.engine.erdy) = true := by decide

/-- R152, R187: FUNC is 1. -/
theorem test_calcSin_control_word :
    nextWith (exec (.calcSin .bits16 .bits16 0 6) (during .sin .q1_15 ⟨16384, 0, 1⟩ ⟨32767, 0, 1⟩ .cfg .empty false 0 0))
      (fun t => t.seq == .wr1 && t.bus == [.write 0 0x00780061] && t.engine.csr == 0x780061) = true := by decide

/-- R152, R194: two arguments, so WR1 leads to WR2. -/
theorem test_calcSin_first_argument :
    nextWith (exec (.calcSin .bits16 .bits16 0 6) (during .sin .q1_15 ⟨-8192, 0, 1⟩ ⟨32767, 0, 1⟩ .wr1 .empty false 0 0))
      (fun t => t.seq == .wr2 && t.bus == [.write 4 0xFFFFE000] && t.engine.slot == .collecting) = true := by decide

/-- P4: the primary result of PHASE carries PI. -/
theorem test_calcPhase_first_result :
    nextWith (exec (.calcPhase .bits16 .bits16 0 6)
      (during .phase .q1_15 ⟨-20353, 0, 161 / 20⟩ ⟨-28494, 0, 161 / 20⟩ .rd1 .ready0 true 0xFFFFA6BB 0x00007FFF)) (fun t =>
      t.seq == .rd2 && t.r1 == ⟨⟨-22853, 0, mkRat 884279719003555 281474976710656⟩, true⟩ &&
        t.bus == [.read 8 0xFFFFA6BB]) = true := by decide +kernel

/-- P4: the second argument word. -/
theorem test_calcPhase_second_argument :
    nextWith (exec (.calcPhase .bits16 .bits16 0 6)
      (during .phase .q1_15 ⟨-20353, 0, 161 / 20⟩ ⟨-28494, 0, 161 / 20⟩ .wr2 .collecting false 0 0)) (fun t =>
      t.seq == .poll && t.bus == [.write 4 0xFFFF90B2] && t.engine.slot == .computing) = true := by decide +kernel

/-- R154 (conflict C9): the primary result of MOD has soft scale 1. -/
theorem test_calcMod_first_result :
    nextWith (exec (.calcMod .bits16 .bits16 0 6)
      (during .mod .q1_15 ⟨9830, 0, 1⟩ ⟨13107, 0, 1⟩ .rd1 .ready0 true 0x00004000 0x00002000)) (fun t =>
      t.seq == .rd2 && t.r1 == ⟨⟨16384, 0, 1⟩, true⟩) = true := by decide

/-- R154 (conflict C9): the secondary result of MOD carries PI. -/
theorem test_calcMod_second_result :
    nextWith (exec (.calcMod .bits16 .bits16 0 6)
      (during .mod .q1_15 ⟨9830, 0, 1⟩ ⟨13107, 0, 1⟩ .rd2 .ready1 true 0x00004000 0x00002000)) (fun t =>
      t.seq == .idle && t.r2 == ⟨⟨8192, 0, mkRat 884279719003555 281474976710656⟩, true⟩) = true := by decide

/-- Section 2.11: ATAN with argument 3 has SCALE 2. -/
theorem test_calcAtan_control_word :
    nextWith (exec (.calcAtan .bits16 .bits16 2 6) (during .atan .q1_15 ⟨24576, 2, 1⟩ ⟨0, 0, 1⟩ .cfg .empty false 0 0))
      (fun t => t.bus == [.write 0 0x00600264]) = true := by decide

/-- R155, R194: one argument, so WR1 leads to POLL. -/
theorem test_calcAtan_first_argument :
    nextWith (exec (.calcAtan .bits16 .bits16 2 6) (during .atan .q1_15 ⟨24576, 2, 1⟩ ⟨0, 0, 1⟩ .wr1 .empty false 0 0))
      (fun t => t.seq == .poll && t.bus == [.write 4 0x00006000] && t.engine.slot == .computing) = true := by decide

/-- R161, R195: a poll that finds RDY 0 stays at POLL. -/
theorem test_calcCosh_poll :
    nextWith (exec (.calcCosh .bits32 .bits32 1 6)
      (during .cosh .q1_31 ⟨536870912, 1, 1⟩ ⟨0, 0, 1⟩ .poll .computing false 0 0)) (fun t =>
      t.seq == .poll && t.bus == [.read 0 0x00000165]) = true := by decide

/-- R161, R30: the latches of COSH. -/
theorem test_calcCosh_accepted :
    nextWith (exec (.calcCosh .bits32 .bits32 1 6) (created .cosh .q1_31 ⟨536870912, 1, 1⟩ ⟨0, 0, 1⟩)) (fun t =>
      t.seq == .cfg && t.latch == ⟨5, .one, .one, 1, 0x20000000, 0⟩) = true := by decide

/-- R162, R195: a poll that finds RDY 1 goes to RD1. -/
theorem test_calcSinh_poll :
    nextWith (exec (.calcSinh .bits32 .bits32 1 6)
      (during .sinh .q1_31 ⟨536870912, 1, 1⟩ ⟨0, 0, 1⟩ .poll .ready0 true 0x10000000 0)) (fun t =>
      t.seq == .rd1 && t.bus == [.read 0 0x80000166] && t.engine.erdy) = true := by decide

/-- R162, R196: one result, soft scale 1, the latched hardware scale. -/
theorem test_calcSinh_result :
    nextWith (exec (.calcSinh .bits32 .bits32 1 6)
      (during .sinh .q1_31 ⟨536870912, 1, 1⟩ ⟨0, 0, 1⟩ .rd1 .ready0 true 0xF0000000 0)) (fun t =>
      t.seq == .idle && t.r1 == ⟨⟨-268435456, 1, 1⟩, true⟩ && !t.r2.written && t.engine.slot == .empty) = true := by decide

/-- P5: the control word and the argument word of ATANH. -/
theorem test_calcAtanh_control_word :
    nextWith (exec (.calcAtanh .bits32 .bits32 1 6)
      (during .atanh .q1_31 ⟨536870912, 1, 1⟩ ⟨0, 0, 1⟩ .cfg .empty false 0 0)) (fun t =>
      t.bus == [.write 0 0x00000167]) = true := by decide

/-- R180: a CALC without an operation is refused. -/
theorem test_calcAtanh_refused :
    refusedAs (exec (.calcAtanh .bits32 .bits32 1 6) State.reset) .noOperation = true := by decide

/-- P3: the result of LN has soft scale 2. -/
theorem test_calcLn_result :
    nextWith (exec (.calcLn .bits32 .bits32 1 6)
      (during .ln .q1_31 ⟨536870912, 1, 1⟩ ⟨0, 0, 1⟩ .rd1 .ready0 true 0xE9D1BD01 0)) (fun t =>
      t.seq == .idle && t.r1 == ⟨⟨-372130559, 1, 2⟩, true⟩) = true := by decide

/-- P3: the latches of LN. -/
theorem test_calcLn_accepted :
    nextWith (exec (.calcLn .bits32 .bits32 1 6) (created .ln .q1_31 ⟨536870912, 1, 1⟩ ⟨0, 0, 1⟩)) (fun t =>
      t.latch == ⟨8, .one, .one, 1, 0x20000000, 0⟩) = true := by decide

/-- P2: the high half of the result word is ignored in Q1_15. -/
theorem test_calcSqrt_result :
    nextWith (exec (.calcSqrt .bits16 .bits16 2 6)
      (during .sqrt .q1_15 ⟨16384, 2, 1⟩ ⟨0, 0, 1⟩ .rd1 .ready0 true 0xFFFF2D41 0)) (fun t =>
      t.seq == .idle && t.r1 == ⟨⟨11585, 2, 1⟩, true⟩) = true := by decide

/-- P7, fourth line: NARGS written field by field. -/
theorem test_calcSqrt_field_write :
    let s := during .sqrt .q1_31 ⟨1073741824, 2, 1⟩ ⟨0, 0, 1⟩ .cfg .empty false 0 0
    nextWith (exec (.calcSqrt .bits32 .bits32 2 6) { s with
      cfg := { s.cfg with csrWriteMode := .perField }
      cfgField := .nargs
      cfgHeld := some 0x00180069
      engine := { s.engine with csr := 0x180069 } }) (fun t =>
      t.seq == .cfg && t.cfgField == .nres && t.bus == [.write 0 0x00080069]) = true := by decide

/-! ### Commands: 95_test_vectors.md 2.12 -/

theorem test_refusals_after_reset :
    refusedAs (execCommand (.setArg1 (1 / 2)) State.reset) .noOperation = true ∧
      refusedAs (execCommand .getRes State.reset) .noResult = true ∧
      refusedAs (execCommand .getRes2 State.reset) .noOperation = true ∧
      refusedAs (execCommand (.setVec 1 2) State.reset) .noOperation = true ∧
      refusedAs (execCommand (.setArg (1 / 2)) State.reset) .noOperation = true := by decide +kernel

theorem test_create_sqrt :
    nextWith (execCommand (.create 9) State.reset) (fun t =>
      t.fsel == ⟨.sqrt, true⟩ && t.a1 == ⟨⟨0, 0, 1⟩, true⟩ && t.a2 == ⟨⟨0, 0, 1⟩, true⟩) = true := by decide

/-- R181: the preset modulus of COS. -/
theorem test_create_cos :
    nextWith (execCommand (.create 0) State.reset) (fun t => t.a2 == ⟨⟨2147483647, 0, 1⟩, true⟩) = true := by
  decide +kernel

theorem test_arity_refusals :
    refusedAs (execCommand (.setArg2 1) (created .sqrt .q1_31 ⟨0, 0, 1⟩ ⟨0, 0, 1⟩)) .arity = true ∧
      refusedAs (execCommand (.setVec 1 2) (created .sqrt .q1_31 ⟨0, 0, 1⟩ ⟨0, 0, 1⟩)) .arity = true ∧
      refusedAs (execCommand (.setArg (1 / 2)) (created .cos .q1_31 ⟨0, 0, 1⟩ ⟨0, 0, 1⟩)) .arity = true ∧
      refusedAs (execCommand .getRes2 (created .sqrt .q1_31 ⟨0, 0, 1⟩ ⟨0, 0, 1⟩)) .arity = true := by decide +kernel

/-- P4, step 2. -/
theorem test_setVec_phase :
    nextWith (execCommand (.setVec (-5) (-7)) (created .phase .q1_15 ⟨0, 0, 1⟩ ⟨0, 0, 1⟩)) (fun t =>
      t.a1 == ⟨⟨-20353, 0, 161 / 20⟩, true⟩ && t.a2 == ⟨⟨-28494, 0, 161 / 20⟩, true⟩) = true := by decide +kernel

/-- P2, step 4: GETRES returns the cell and its value. -/
theorem test_getRes_value :
    nextWith (execCommand .getRes { created .sqrt .q1_15 ⟨16384, 2, 1⟩ ⟨0, 0, 1⟩ with r1 := ⟨⟨11585, 2, 1⟩, true⟩ })
      (fun t => t.reply == some (.result ⟨11585, 2, 1⟩ (11585 / 8192))) = true := by decide +kernel

/-- Section 2.12, last two rows: the order of the reasons (R219). -/
theorem test_refusal_order :
    refusedAs (exec (.calcCos .bits32 .bits32 0 6)
      { created .cos .q1_31 ⟨0, 0, 1⟩ ⟨0, 0, 1⟩ with clock := false }) .clock = true ∧
      refusedAs (step { during .cos .q1_31 ⟨0, 0, 1⟩ ⟨0, 0, 1⟩ .poll .computing false 0 0 with
        clock := false, agenda := [.command .calc] }) .busy = true := by decide +kernel

/-! ### The step -/

/-- The instruction of a table row's word is the first instruction after reset (log 14). -/
theorem test_withFetchWord_runs :
    nextWith (step (State.reset.withFetchWord 32 0x00180060)) (fun t =>
      t.seq == .cfg && t.latch.lf == 0 && t.agenda == []) = true := by decide +kernel

theorem test_bus_refuses_and_faults :
    (match memRead 4 State.reset with | .refused r => r == .accessMode | .next _ | .fault _ => false) = true ∧
      (match memRead 12 State.reset with | .fault r => r == .noRegister 12 | .next _ | .refused _ => false) = true := by
  decide

/-! ### Witnesses: for each obligation with hypotheses, a state and operands that meet them, for each clause -/

/-- COS of 90 degrees in Q1_31 (P1), created. -/
def cosCreated : State := created .cos .q1_31 ⟨1073741824, 0, 1⟩ ⟨2147483647, 0, 1⟩

/-- The same with its transaction at `q`. -/
def cosAt (q : Machine.Seq) (slot : Slot) (r : Bool) : State :=
  during .cos .q1_31 ⟨1073741824, 0, 1⟩ ⟨2147483647, 0, 1⟩ q slot r 0 0x7FFFFFFF

/-- SQRT of 2 in Q1_31 (P6), created. -/
def sqrtCreated : State := created .sqrt .q1_31 ⟨1073741824, 2, 1⟩ ⟨0, 0, 1⟩

/-- The same with its transaction at `q`. -/
def sqrtAt (q : Machine.Seq) (slot : Slot) (r : Bool) : State :=
  during .sqrt .q1_31 ⟨1073741824, 2, 1⟩ ⟨0, 0, 1⟩ q slot r 0x2D413CCD 0

/-- `s` with its control word written field by field. -/
def byFields (s : State) : State := { s with cfg := { s.cfg with csrWriteMode := .perField } }

theorem cfgOf_wf (f : Fmt) : (cfgOf f).wf = true := by cases f <;> decide +kernel

theorem inv_cosAt (q : Machine.Seq) (slot : Slot) (r : Bool) (m : List Move) : { cosAt q slot r with agenda := m }.Inv where
  cfg_wf := cfgOf_wf .q1_31
  a1_legal := fun _ => show RawInRange .q1_31 1073741824 by decide
  a2_legal := fun _ => show RawInRange .q1_31 2147483647 by decide
  r1_legal := fun h => by cases h
  r2_legal := fun h => by cases h
  created := ⟨⟨fun _ => rfl, fun _ => rfl⟩, fun _ => rfl, fun _ => rfl⟩
  r1_owned := fun h => by cases h
  r2_owned := fun h => by cases h
  running := fun _ => ⟨rfl, rfl⟩
  wr2_two := fun _ => rfl
  rd2_two := fun _ => rfl
  cfg_place := fun _ => ⟨rfl, rfl⟩

theorem inv_sqrtAt_poll : (sqrtAt .poll .computing false).Inv where
  cfg_wf := cfgOf_wf .q1_31
  a1_legal := fun _ => by decide
  a2_legal := fun _ => by decide
  r1_legal := fun h => by cases h
  r2_legal := fun h => by cases h
  created := by decide
  r1_owned := by decide
  r2_owned := by decide
  running := fun _ => ⟨rfl, rfl⟩
  wr2_two := by decide
  rd2_two := by decide
  cfg_place := by decide

theorem inv_cosByFields (m : List Move) : { byFields (cosAt .cfg .empty false) with agenda := m }.Inv where
  cfg_wf := show ({ cfgOf .q1_31 with csrWriteMode := .perField } : Cfg).wf = true by decide +kernel
  a1_legal := fun _ => show RawInRange .q1_31 1073741824 by decide
  a2_legal := fun _ => show RawInRange .q1_31 2147483647 by decide
  r1_legal := fun h => by cases h
  r2_legal := fun h => by cases h
  created := ⟨⟨fun _ => rfl, fun _ => rfl⟩, fun _ => rfl, fun _ => rfl⟩
  r1_owned := fun h => by cases h
  r2_owned := fun h => by cases h
  running := fun _ => ⟨rfl, rfl⟩
  wr2_two := fun _ => rfl
  rd2_two := fun _ => rfl
  cfg_place := fun _ => ⟨rfl, rfl⟩

theorem arities_default : ∀ f, (cfgOf .q1_31).arities.of f =
    ⟨((cfgOf .q1_31).desc.of f).nargs, ((cfgOf .q1_31).desc.of f).nres⟩ := by
  intro f
  cases f <;> rfl

theorem witness_EncodeOfDecodeIsTheWord :
    decode .default 0x006007F9 = .ok (.calcSqrt .bits16 .bits16 7 15) := by decide

theorem witness_MaskAndMatchSelectTheFunction :
    (0x00780063 : Word) &&& tableMask = tableMatch .mod ∧ (0x00600269 : Word) &&& tableMask = tableMatch .sqrt := by decide

theorem witness_ReservedWordsDoNotDecode :
    decode .default 0x00180060 = .ok (.calcCos .bits32 .bits32 0 6) := by decide

theorem witness_StepRunsTheDecodedInstruction :
    (let s := { cosCreated with agenda := [.command .calc] };
      s.cfg.wf = true ∧ s.seq = .idle ∧ s.agenda = .command .calc :: [] ∧
        decode s.cfg.desc (selectedWord s) = .ok (.calcCos .bits32 .bits32 0 6)) ∧
    (let s := cosAt .wr1 .empty false;
      s.cfg.wf = true ∧ s.seq ≠ .idle ∧ s.agenda = [] ∧
        decode s.cfg.desc (latchedWord s) = .ok (.calcCos .bits32 .bits32 0 6)) ∧
    (let s := { cosAt .wr1 .empty false with agenda := [.access] };
      s.cfg.wf = true ∧ s.seq ≠ .idle ∧ (∃ rest, s.agenda = .access :: rest) ∧
        decode s.cfg.desc (latchedWord s) = .ok (.calcCos .bits32 .bits32 0 6)) :=
  ⟨⟨cfgOf_wf _, rfl, rfl, by decide⟩, ⟨cfgOf_wf _, by decide, rfl, by decide⟩,
    ⟨cfgOf_wf _, by decide, ⟨_, rfl⟩, by decide⟩⟩

theorem witness_FetchedInstructionIsTheSelectedOne :
    (cosAt .wr2 .collecting false).Inv ∧ (cosAt .wr2 .collecting false).seq ≠ .idle :=
  ⟨inv_cosAt _ _ _ _, by decide⟩

theorem witness_PlacedWordIsRunByTheNextStep :
    decodeTableWord 32 0x00600269 = some (.calcSqrt .bits16 .bits16 2 6) ∧
      (Instr.calcSqrt .bits16 .bits16 2 6).wellFormed = true := by decide

/-- A state with one move to come. -/
def cosWith (m : Move) : State := { cosCreated with agenda := [m] }

theorem witness_StepPerformsTheMoveNext :
    cosCreated.cfg.wf = true ∧ (cosWith (.command .getScale)).agenda = .command .getScale :: [] ∧
      Command.getScale ≠ .calc ∧ (cosWith (.engine 1 2)).agenda = .engine 1 2 :: [] ∧
      (cosWith (.engine 1 2)).clock = true ∧ { cosWith (.engine 1 2) with clock := false }.clock = false ∧
      (cosWith (.clock true)).agenda = .clock true :: [] ∧ (cosWith (.clock false)).agenda = .clock false :: [] ∧
      (cosWith .reset).agenda = .reset :: [] ∧
      (cosWith .access).agenda = .access :: [] ∧ (cosWith .access).seq = .idle ∧ cosCreated.agenda = [] ∧
      cosCreated.seq = .idle :=
  ⟨cfgOf_wf _, rfl, by decide, rfl, rfl, rfl, rfl, rfl, rfl, rfl, rfl, rfl, rfl⟩

theorem witness_CommandsAreRefusedWhileBusy :
    let s := { cosAt .poll .computing false with agenda := [.command .getRes] }
    s.cfg.wf = true ∧ s.seq ≠ .idle ∧ s.agenda = .command .getRes :: [] :=
  ⟨cfgOf_wf _, by decide, rfl⟩

/-- The state after reset under the configuration `c`. -/
def configured (c : Cfg) : State := { State.reset with cfg := c }

/-- R7, R54, R112: BASE no multiple of 4, PI not positive, VEC_MARGIN not above 1, an allowed range upside down, an empty
table, exponents that do not ascend, an exponent −1, an exponent 8, a range upside down. Each is refused, and the
default is not. -/
theorem witness_BadConfigurationIsRefused :
    refusedAs (step (configured { Cfg.reset with base := 2 })) .badConfig = true ∧
      refusedAs (step (configured { Cfg.reset with pi := 0 })) .badConfig = true ∧
      refusedAs (step (configured { Cfg.reset with vecMargin := 1 })) .badConfig = true ∧
      (∀ k ∈ [(⟨.bands [⟨1, 3, 1⟩], 1, -1⟩ : KindSpec), ⟨.scaled (-1) 1 [], -1, 1⟩, ⟨.scaled (-1) 1 [1, 1], -1, 1⟩,
          ⟨.scaled (-1) 1 [-1], -1, 1⟩, ⟨.scaled (-1) 1 [8], -1, 1⟩, ⟨.bands [⟨3, 1, 1⟩], -1, 1⟩],
        refusedAs (step (configured { Cfg.reset with kinds := { KindTable.default with sqrt := k } })) .badConfig
          = true) ∧
      refusedAs (step State.reset) .badConfig = false := by
  decide +kernel

theorem witness_NoStepChangesTheConfiguration :
    nextWith (step { cosCreated with agenda := [.command .calc] }) (fun t => t.cfg == cfgOf .q1_31) = true := by
  decide +kernel

theorem witness_CalcIsAccepted :
    (cosCreated.seq = .idle ∧ cosCreated.fsel.written = true ∧ cosCreated.a1.written = true ∧
      (cosCreated.cfg.desc.of .cos).nargs = .two ∧ cosCreated.a2.written = true ∧ cosCreated.clock = true) ∧
    (sqrtCreated.seq = .idle ∧ sqrtCreated.fsel.written = true ∧ sqrtCreated.a1.written = true ∧
      (sqrtCreated.cfg.desc.of .sqrt).nargs = .one ∧ sqrtCreated.clock = true) := by decide

theorem witness_CalcIsRefusedInOrder :
    (State.reset.seq = .idle ∧ State.reset.fsel.written = false) ∧
    (let s := { cosCreated with a1 := ⟨⟨0, 0, 1⟩, false⟩ };
      s.seq = .idle ∧ s.a1.written = false) ∧
    (let s := { cosCreated with a2 := ⟨⟨0, 0, 1⟩, false⟩ };
      s.seq = .idle ∧ (s.cfg.desc.of .cos).nargs = .two ∧ s.a2.written = false) ∧
    (let s := { cosCreated with clock := false };
      s.seq = .idle ∧ s.fsel.written = true ∧ s.a1.written = true ∧ s.a2.written = true ∧ s.clock = false) := by decide

theorem witness_ControlWordIsWrittenOnce :
    (cosAt .cfg .empty false).seq = .cfg ∧ (cosAt .cfg .empty false).cfg.csrWriteMode = .single := by decide

/-- The first field before its read, the first and the last field before their writes. -/
theorem witness_ControlWordIsWrittenByFields :
    let s := byFields (cosAt .cfg .empty false)
    (s.seq = .cfg ∧ s.cfg.csrWriteMode = .perField ∧ s.clock = true ∧ s.cfgHeld = none) ∧
    (let t := { s with cfgHeld := some 0 };
      t.seq = .cfg ∧ t.cfgHeld = some 0 ∧ t.cfgField.after = some .argSize) ∧
    (let t := { s with cfgHeld := some 0x00180060, cfgField := .ien };
      t.seq = .cfg ∧ t.cfgHeld = some 0x00180060 ∧ t.cfgField.after = none) := by decide

theorem witness_FieldWritesReachTheControlWord :
    let s := { byFields (cosAt .cfg .empty false) with agenda := List.replicate 20 Move.access ++ [Move.reset] }
    s.Inv ∧ s.seq = .cfg ∧ s.cfg.csrWriteMode = .perField ∧ s.cfgField = .func ∧ s.cfgHeld = none ∧ s.clock = true ∧
      s.agenda = List.replicate 20 Move.access ++ [Move.reset] :=
  ⟨inv_cosByFields _, rfl, rfl, rfl, rfl, rfl, rfl⟩

theorem witness_ArgumentWordsAreWritten :
    ((cosAt .wr1 .empty false).clock = true ∧ (cosAt .wr1 .empty false).seq = .wr1 ∧
      (cosAt .wr1 .empty false).latch.ln = .two) ∧
    ((sqrtAt .wr1 .empty false).clock = true ∧ (sqrtAt .wr1 .empty false).seq = .wr1 ∧
      (sqrtAt .wr1 .empty false).latch.ln = .one) ∧
    ((cosAt .wr2 .collecting false).clock = true ∧ (cosAt .wr2 .collecting false).seq = .wr2) := by decide

theorem witness_PollReadsUntilReady :
    ((cosAt .poll .computing false).seq = .poll ∧ (cosAt .poll .computing false).clock = true ∧
      (cosAt .poll .computing false).engine.erdy = false) ∧
    ((cosAt .poll .ready0 true).seq = .poll ∧ (cosAt .poll .ready0 true).clock = true ∧
      (cosAt .poll .ready0 true).engine.erdy = true) := by decide

theorem witness_PrimaryResultIsStored :
    ((cosAt .rd1 .ready0 true).seq = .rd1 ∧ (cosAt .rd1 .ready0 true).clock = true ∧
      (cosAt .rd1 .ready0 true).latch.lr = .two) ∧
    ((sqrtAt .rd1 .ready0 true).seq = .rd1 ∧ (sqrtAt .rd1 .ready0 true).clock = true ∧
      (sqrtAt .rd1 .ready0 true).latch.lr = .one) := by decide

theorem witness_SecondaryResultIsStored :
    (cosAt .rd2 .ready1 true).seq = .rd2 ∧ (cosAt .rd2 .ready1 true).clock = true := by decide

theorem witness_UnclockedTransactionGoesOn :
    { cosAt .poll .computing false with clock := false }.seq ≠ .idle ∧
      { cosAt .poll .computing false with clock := false }.clock = false := by decide

/-- A step that answers next at each of RD1, RD2 and `idle`. -/
theorem witness_DefaultPostScalesAndCounts :
    (cosAt .rd1 .ready0 true).cfg.desc = .default ∧
      nextWith (exec (.calcPhase .bits32 .bits32 0 6) (cosAt .rd1 .ready0 true)) (fun _ => true) = true ∧
      nextWith (exec (.calcMod .bits32 .bits32 0 6) (cosAt .rd2 .ready1 true)) (fun _ => true) = true ∧
      nextWith (exec (.calcCos .bits32 .bits32 0 6) (cosAt .rd2 .ready1 true)) (fun _ => true) = true ∧
      nextWith (exec (.calcLn .bits32 .bits32 1 6) sqrtCreated) (fun _ => true) = true := by decide

/-- The same steps meet the hypothesis of the frame, of the movement of SEQ and of the soft scale's statement: one at
each SEQ. -/
theorem witness_CalcFrame_SeqMovesAsTheSteps_SoftScaleNeverReachesTheBus :
    nextWith (exec (.calcCos .bits32 .bits32 0 6) cosCreated) (fun _ => true) = true ∧
      nextWith (exec (.calcCos .bits32 .bits32 0 6) (cosAt .cfg .empty false)) (fun _ => true) = true ∧
      nextWith (exec (.calcCos .bits32 .bits32 0 6) (byFields (cosAt .cfg .empty false))) (fun _ => true) = true ∧
      nextWith (exec (.calcCos .bits32 .bits32 0 6) (cosAt .wr1 .empty false)) (fun _ => true) = true ∧
      nextWith (exec (.calcCos .bits32 .bits32 0 6) (cosAt .wr2 .collecting false)) (fun _ => true) = true ∧
      nextWith (exec (.calcCos .bits32 .bits32 0 6) (cosAt .poll .computing false)) (fun _ => true) = true ∧
      nextWith (exec (.calcCos .bits32 .bits32 0 6) (cosAt .rd1 .ready0 true)) (fun _ => true) = true ∧
      nextWith (exec (.calcCos .bits32 .bits32 0 6) (cosAt .rd2 .ready1 true)) (fun _ => true) = true := by decide

/-- The hypotheses of the frame's clauses about the engine: a clocked engine within its contract at each SEQ. -/
theorem witness_CalcFrame_engine :
    engineIdle cosCreated.engine = true ∧
    (let s := byFields (cosAt .cfg .empty false);
      s.seq = .cfg ∧ s.clock = true ∧ s.cfg.csrWriteMode = .perField ∧ s.cfgHeld = none) ∧
    (let s := cosAt .wr1 .empty false; s.seq = .wr1 ∧ s.clock = true ∧ s.engine.slot ≠ .computing ∧
      s.engine.slot ≠ .collecting) ∧
    (let s := cosAt .wr2 .collecting false; s.seq = .wr2 ∧ s.clock = true ∧ s.engine.slot ≠ .computing ∧
      s.engine.slot = .collecting) ∧
    (let s := cosAt .rd1 .ready0 true; s.seq = .rd1 ∧ s.clock = true ∧ countsMatch s.cfg s.engine = true ∧
      s.engine.slot = .ready0) ∧
    (let s := cosAt .rd2 .ready1 true; s.seq = .rd2 ∧ s.clock = true ∧ countsMatch s.cfg s.engine = true ∧
      s.engine.slot = .ready1) := by decide

theorem witness_WholeTransactionCompletes :
    let s := { cosAt .idle .empty false with
      agenda := .command .calc :: (List.replicate (1 + 2 + 1) Move.access ++
        Move.engine 0 0x7FFFFFFF :: (List.replicate (1 + 2) Move.access ++ [])) }
    s.Inv ∧ s.EngineSync ∧ s.seq = .idle ∧ s.fsel.written = true ∧ s.cfg.csrWriteMode = .single ∧
      (s.cfg.desc.of s.fsel.func).nargs.toNat = 2 ∧ (s.cfg.desc.of s.fsel.func).nres.toNat = 2 :=
  ⟨inv_cosAt _ _ _ _, ⟨rfl, by decide, arities_default, rfl⟩, rfl, rfl, rfl, rfl, rfl⟩

theorem witness_WithoutTheEngineThePollNeverEnds :
    let s := sqrtAt .poll .computing false
    s.Inv ∧ s.seq = .poll ∧ s.clock = true ∧ s.engine.erdy = false ∧ ∀ m ∈ s.agenda, m = .access :=
  ⟨inv_sqrtAt_poll, rfl, rfl, rfl, by decide⟩

theorem witness_BusPrimitives :
    cosCreated.clock = true ∧ (12 : Word) ≠ cosCreated.cfg.base ∧ (12 : Word) ≠ cosCreated.cfg.base + 4 ∧
      (12 : Word) ≠ cosCreated.cfg.base + 8 := by decide

theorem witness_EngineContract :
    (cosAt .wr1 .empty false).engine.slot = .empty ∧ (cosAt .wr2 .collecting false).engine.slot = .collecting ∧
      (cosAt .poll .computing false).engine.slot = .computing ∧ (cosAt .rd1 .ready0 true).engine.slot ≠ .computing ∧
      countsMatch (cfgOf .q1_31) (cosAt .rd1 .ready0 true).engine = true ∧
      (cosAt .rd1 .ready0 true).engine.slot = .ready0 ∧
      countsMatch (cfgOf .q1_31) (cosAt .rd2 .ready1 true).engine = true ∧
      (cosAt .rd2 .ready1 true).engine.slot = .ready1 := by decide

theorem witness_OnlyTheEngineSetsReady :
    let s := { cosAt .poll .computing false with agenda := [.engine 1 2] }
    s.Inv ∧ s.EngineSync ∧ nextWith (step s) (fun t => t.engine.erdy) = true ∧ s.engine.erdy = false :=
  ⟨inv_cosAt _ _ _ _, ⟨rfl, by decide, arities_default, rfl, .inl ⟨rfl, rfl⟩⟩, by decide +kernel, rfl⟩

theorem witness_CreateBuildsTheOperation : State.reset.seq = .idle := rfl

theorem witness_CreateRefusesUnknownFunctions :
    State.reset.seq = .idle ∧ 10 ≤ (10 : BitVec 4).toNat ∧ 10 ≤ (15 : BitVec 4).toNat := by decide

/-- The three acceptances, and a value below and one above the allowed range of the UNIT kind. -/
theorem witness_SetArg1Encodes :
    (cosAt .poll .computing false).seq ≠ .idle ∧ (State.reset.seq = .idle ∧ State.reset.fsel.written = false) ∧
      (cosCreated.seq = .idle ∧ cosCreated.fsel.written = true) ∧
      (let t := KindTable.default.unit.table.ranges;
        KindTable.default.unit.allowedLo ≤ KindTable.default.unit.allowedHi ∧
          -2 * pow2 (-(rangeAt t (findSmallestScaleIndex t (-2))).exp) < KindTable.default.unit.allowedLo ∧
          KindTable.default.unit.allowedHi < 2 * pow2 (-(rangeAt t (findSmallestScaleIndex t 2)).exp)) := by
  decide +kernel

theorem witness_SetArg2AndSetArgFollowArity :
    (cosAt .poll .computing false).seq ≠ .idle ∧ (State.reset.seq = .idle ∧ State.reset.fsel.written = false) ∧
      (sqrtCreated.seq = .idle ∧ sqrtCreated.fsel.written = true ∧
        (sqrtCreated.cfg.desc.of sqrtCreated.fsel.func).args = .one .sqrt) ∧
      (cosCreated.seq = .idle ∧ cosCreated.fsel.written = true ∧
        (cosCreated.cfg.desc.of cosCreated.fsel.func).args = .two .unit .unit (some 1)) := by decide +kernel

/-- A function that takes a vector, with the default margin, a value at the threshold of 1 and one below it; one of the
UNIT kind and one of another that do not. -/
theorem witness_SetVecNormalises :
    (let s := created .phase .q1_15 ⟨0, 0, 1⟩ ⟨0, 0, 1⟩;
      s.seq = .idle ∧ s.fsel.written = true ∧ s.fsel.func = .phase ∧ s.cfg.kinds = .default ∧ 1 < s.cfg.vecMargin ∧
        (s.cfg.desc.of s.fsel.func).kind1 = .unit ∧ s.cfg.vecMargin = 23 / 20 ∧ (1 : Value) ≤ |1| ∧
        |(-1 / 2 : Value)| < 1) ∧
    (∀ s ∈ [cosCreated, sqrtCreated],
      s.seq = .idle ∧ s.fsel.written = true ∧ s.fsel.func ≠ .phase ∧ s.fsel.func ≠ .mod) :=
  ⟨⟨rfl, rfl, rfl, rfl, by decide +kernel, rfl, by decide +kernel, by norm_num, by norm_num [abs_of_neg]⟩, by decide⟩

theorem witness_GetResReturnsTheResult :
    (cfgOf .q1_31).wf = true ∧
    (let s := { cosAt .poll .computing false with agenda := [.command .getRes] };
      s.seq ≠ .idle ∧ s.agenda = .command .getRes :: []) ∧
    (let s := cosWith (.command .getRes);
      s.seq = .idle ∧ s.r1.written = false ∧ s.agenda = .command .getRes :: []) ∧
    (let s := { cosCreated with r1 := ⟨⟨27, 0, 1⟩, true⟩, agenda := [.command .getRes] };
      s.seq = .idle ∧ s.r1.written = true ∧ s.agenda = .command .getRes :: []) ∧
    (let s := { cosCreated with r1 := ⟨⟨27, 0, 1⟩, true⟩, agenda := [.command .getRes, .command .getRes] };
      s.seq = .idle ∧ s.r1.written = true ∧ ∃ later, s.agenda = .command .getRes :: .command .getRes :: later) :=
  ⟨cfgOf_wf _, ⟨by decide, rfl⟩, ⟨rfl, rfl, rfl⟩, ⟨rfl, rfl, rfl⟩, rfl, rfl, _, rfl⟩

theorem witness_GetRes2AndGetScaleReturn :
    (cosAt .poll .computing false).seq ≠ .idle ∧
      (State.reset.seq = .idle ∧ State.reset.fsel.written = false ∧ State.reset.a1.written = false) ∧
      (sqrtCreated.fsel.written = true ∧ (sqrtCreated.cfg.desc.of sqrtCreated.fsel.func).nres = .one) ∧
      (cosCreated.fsel.written = true ∧ (cosCreated.cfg.desc.of cosCreated.fsel.func).nres = .two ∧
        cosCreated.r2.written = false ∧ cosCreated.a1.written = true) ∧
      { cosCreated with r2 := ⟨⟨5, 0, 1⟩, true⟩ }.r2.written = true := by decide

theorem witness_CommandFrame :
    nextWith (execCommand (.create 9) State.reset) (fun _ => true) = true ∧
      nextWith (execCommand (.setArg1 0) cosCreated) (fun _ => true) = true ∧
      nextWith (execCommand .getScale cosCreated) (fun _ => true) = true := by decide

theorem witness_FirstCommandMustBeCreate :
    let s := { State.reset with agenda := [.command .getRes] }
    s.cfg.wf = true ∧ s.seq = .idle ∧ s.fsel.written = false ∧ s.a1.written = false ∧ s.r1.written = false ∧
      s.agenda = .command .getRes :: [] ∧ ∀ code, Command.getRes ≠ .create code :=
  ⟨cfgOf_wf .q1_31, rfl, rfl, rfl, rfl, rfl, fun _ h => by cases h⟩

theorem witness_PseudoCommandsSetAnglesAndModulus :
    cosCreated.seq = .idle ∧ cosCreated.fsel.written = true ∧
      (cosCreated.cfg.desc.of cosCreated.fsel.func).args = .two .unit .unit (some 1) := by decide +kernel

/-- The premises of the three preserved invariants, with a step that answers next: the sequencer's, at the turn of the
engine word and before the results. -/
theorem witness_EveryStepKeepsTheInvariant :
    (cosAt .rd1 .ready0 true).Inv ∧ nextWith (step (cosAt .rd1 .ready0 true)) (fun t => t.r1.written) = true :=
  ⟨inv_cosAt _ _ _ _, by decide +kernel⟩

theorem witness_EveryStepKeepsTheEngineInStep :
    (cosAt .wr2 .collecting false).Inv ∧ (cosAt .wr2 .collecting false).EngineSync ∧
      nextWith (step (cosAt .wr2 .collecting false)) (fun t => t.engine.slot == .computing) = true :=
  ⟨inv_cosAt _ _ _ _, ⟨rfl, by decide, arities_default, rfl, rfl, rfl⟩, by decide +kernel⟩

theorem witness_EveryStepKeepsTheBusOrder :
    let s := { cosAt .wr1 .empty false with bus := [.write 0 0x00180060] }
    s.Inv ∧ s.BusOrder ∧ nextWith (step s) (fun t => t.bus == [.write 4 0x40000000, .write 0 0x00180060]) = true := by
  refine ⟨?_, ?_, by decide +kernel⟩
  · have h := inv_cosAt .wr1 .empty false []
    exact ⟨h.cfg_wf, h.a1_legal, h.a2_legal, h.r1_legal, h.r2_legal, h.created, h.r1_owned, h.r2_owned, h.running,
      h.wr2_two, h.rd2_two, h.cfg_place⟩
  · show ([.write 0 0x00180060] : List BusAccess) = [.write 0 _]
    congr 1

theorem witness_RoundingIsToNearestAwayFromZero :
    |(rnd (1 / 2) : Value) - 1 / 2| = 1 / 2 ∧ |(rnd (-1 / 2) : Value) - -1 / 2| = 1 / 2 := by
  rw [show rnd (1 / 2) = 1 by decide +kernel, show rnd (-1 / 2) = -1 by decide +kernel]
  norm_num [abs_of_nonneg, abs_of_neg]

theorem witness_ResetLeavesTheBlockIdleAndUnwritten : ∃ r, hardwareReset cosCreated = hardwareReset r := ⟨_, rfl⟩

theorem witness_LookupIsFirstContainingElseLast : KindTable.default.ln.table.ranges ≠ [] := by decide +kernel

theorem witness_EncodedCellIsLegal : (cfgOf .q1_15).wf = true ∧ (cfgOf .q1_31).wf = true :=
  ⟨cfgOf_wf _, cfgOf_wf _⟩

/-- 6.9 in the third LN band, Q1_15 (95_test_vectors.md, properties). -/
theorem witness_EncodingRoundTripError :
    let c := cfgOf .q1_15
    let t := (c.kinds.of .ln).table.ranges
    let v : Value := 69 / 10
    let e := (rangeAt t (findSmallestScaleIndex t v)).exp
    c.wf = true ∧ (∃ r ∈ t, rangeContains r v = true) ∧ (c.kinds.of .ln).allowedLo ≤ v * pow2 (-e) ∧
      v * pow2 (-e) ≤ (c.kinds.of .ln).allowedHi ∧ RawInRange c.fmt (rnd (v * pow2 (-e) * pow2 c.fmt.fracBits)) := by
  decide +kernel

theorem witness_LargerMagnitudeNeverGetsSmallerScale :
    (cfgOf .q1_15).kinds = .default ∧ |(1 : Value)| < |(-3 : Value)| ∧ (107 / 1000 : Value) ≤ 107 / 1000 ∧
      (107 / 1000 : Value) ≤ 1 ∧ (27 / 1000 : Value) ≤ 27 / 1000 ∧ (27 / 1000 : Value) ≤ 4 :=
  ⟨rfl, by norm_num, by norm_num, by norm_num, by norm_num, by norm_num⟩

theorem witness_ValuesAboveTheTableSaturate :
    (cfgOf .q1_15).kinds = .default ∧ (1 : Value) ≤ 1 ∧ (128 : Value) ≤ 128 ∧ (1118 / 1000 : Value) ≤ 6 / 5 ∧
      (806 / 1000 : Value) ≤ 9 / 10 ∧ (16 : Value) ≤ 16 ∧ (4 : Value) ≤ 4 :=
  ⟨rfl, by norm_num, by norm_num, by norm_num, by norm_num, by norm_num, by norm_num⟩

theorem witness_AnglesAreNotWrapped :
    (cfgOf .q1_31).kinds = .default ∧ (180 : Int) ≤ 180 ∧ (-180 : Int) ≤ -180 := ⟨rfl, by decide, by decide⟩

theorem witness_BusWordRoundTrip :
    RawInRange .q1_15 (-32768) ∧ RawInRange .q1_31 2147483647 ∧
      (0x12348000 : Word).extractLsb' 0 16 = (0x00008000 : Word).extractLsb' 0 16 := by decide

end Sys2Proof.Tests.Slice0
end

section
/-! SUPPORT. The control word bit by bit, decoding the word of a function with its own counts, and the masks of a
field-by-field write. -/

namespace Sys2Proof

section ControlWord

variable (a r : WordSize) (na nr : Count) (sc : BitVec 3) (p c : BitVec 4)

theorem csrWord_func : (csrWord a r na nr sc p c).extractLsb' 0 4 = c :=
  Laws.FuncField.csrWord_low a r na nr sc p c

theorem csrWord_precision : (csrWord a r na nr sc p c).extractLsb' 4 4 = p := by
  unfold csrWord
  rw [BitVec.extractLsb'_append_eq_of_le (by decide)]
  exact BitVec.extractLsb'_append_eq_right

theorem csrWord_scale : (csrWord a r na nr sc p c).extractLsb' 8 3 = sc := by
  unfold csrWord
  iterate 2 rw [BitVec.extractLsb'_append_eq_of_le (by decide)]
  exact BitVec.extractLsb'_append_eq_right

/-- R88: bits 15:11 are 0. -/
theorem csrWord_unnamed : (csrWord a r na nr sc p c).extractLsb' 11 5 = 0 := by
  unfold csrWord
  iterate 3 rw [BitVec.extractLsb'_append_eq_of_le (by decide)]
  rw [BitVec.extractLsb'_append_eq_of_add_le (by decide)]
  rfl

/-- R83: DMAWEN, DMAREN and IEN are 0. -/
theorem csrWord_channels : (csrWord a r na nr sc p c).extractLsb' 16 3 = 0 := by
  unfold csrWord
  iterate 3 rw [BitVec.extractLsb'_append_eq_of_le (by decide)]
  rw [BitVec.extractLsb'_append_eq_of_add_le (by decide)]
  rfl

theorem csrWord_nres : (csrWord a r na nr sc p c).extractLsb' 19 1 = nr.bit := by
  unfold csrWord
  iterate 4 rw [BitVec.extractLsb'_append_eq_of_le (by decide)]
  exact BitVec.extractLsb'_append_eq_right

theorem csrWord_nargs : (csrWord a r na nr sc p c).extractLsb' 20 1 = na.bit := by
  unfold csrWord
  iterate 5 rw [BitVec.extractLsb'_append_eq_of_le (by decide)]
  exact BitVec.extractLsb'_append_eq_right

theorem csrWord_resSize : (csrWord a r na nr sc p c).extractLsb' 21 1 = r.bit := by
  unfold csrWord
  iterate 6 rw [BitVec.extractLsb'_append_eq_of_le (by decide)]
  exact BitVec.extractLsb'_append_eq_right

theorem csrWord_argSize : (csrWord a r na nr sc p c).extractLsb' 22 1 = a.bit := by
  unfold csrWord
  iterate 7 rw [BitVec.extractLsb'_append_eq_of_le (by decide)]
  exact BitVec.extractLsb'_append_eq_right

/-- R88, R89: bits 31:23 are 0. -/
theorem csrWord_high : (csrWord a r na nr sc p c).extractLsb' 23 9 = 0 := by
  unfold csrWord
  iterate 7 rw [BitVec.extractLsb'_append_eq_of_le (by decide)]
  exact BitVec.extractLsb'_append_eq_left

/-- R80: a control word has no bit outside the named fields. -/
theorem csrWord_and_named : csrWord a r na nr sc p c &&& 0x007F07FF = csrWord a r na nr sc p c := by
  have hmask : (0x007F07FF : Word) = (0 : BitVec 9) ++ BitVec.allOnes 1 ++ BitVec.allOnes 1 ++ BitVec.allOnes 1 ++
      BitVec.allOnes 1 ++ (0xE0 : BitVec 8) ++ BitVec.allOnes 3 ++ BitVec.allOnes 4 ++ BitVec.allOnes 4 := by decide
  rw [hmask]
  unfold csrWord
  iterate 8 rw [BitVec.and_append]
  simp only [BitVec.and_allOnes]
  rfl

end ControlWord

theorem fieldsOf_csrWord (x : Fields) (na nr : Count) (c : BitVec 4) :
    fieldsOf (csrWord x.argSize x.resSize na nr x.scale x.precision c) = x := by
  simp [fieldsOf, csrWord_argSize, csrWord_resSize, csrWord_scale, csrWord_precision]

/-- R87, R189: a control word with the counts of its function decodes to that function with the word's operands. -/
theorem decode_csrWord (d : DescTable) (f : Func) (x : Fields) :
    decode d (csrWord x.argSize x.resSize (d.of f).nargs (d.of f).nres x.scale x.precision f.code) =
      .ok (.make f x) := by
  simp [decode, csrWord_high, csrWord_unnamed, csrWord_channels, csrWord_func, csrWord_nargs, csrWord_nres,
    fieldsOf_csrWord]

/-- R82: a count bit is read as two exactly when it is set. -/
theorem ofBit_extractLsb' {n : Nat} (v : BitVec n) (j : Nat) :
    Count.ofBit (v.extractLsb' j 1) = if v.getLsbD j then .two else .one := by
  have hbit : v.extractLsb' j 1 = 1 ↔ v.getLsbD j = true := by
    rw [BitVec.eq_of_getLsbD_eq_iff]
    simp
  simp only [Count.ofBit, hbit]

/-- A field of bits 22:0 of a word is that field of the word. -/
theorem extractLsb'_of_low {start len : Nat} (w : Word) (h : start + len ≤ 23) :
    (w.extractLsb' 0 23).extractLsb' start len = w.extractLsb' start len := by
  apply BitVec.eq_of_getLsbD_eq
  intro i hi
  have : start + i < 23 := by omega
  simp [hi, this]

/-- Bits 22:0 of a word, as a word. -/
theorem setWidth_low (w : Word) : (w.extractLsb' 0 23).setWidth 32 = w &&& 0x007FFFFF := by
  apply BitVec.eq_of_toNat_eq
  rw [BitVec.toNat_and, show (0x007FFFFF : Word).toNat = 2 ^ 23 - 1 from rfl, Nat.and_two_pow_sub_one_eq_mod,
    BitVec.toNat_setWidth, BitVec.extractLsb'_toNat, Nat.shiftRight_zero]
  omega

/-- A word without a bit above 22 is bits 22:0 of itself. -/
theorem setWidth_low_of_and_named {w : Word} (h : w &&& 0x007F07FF = w) : (w.extractLsb' 0 23).setWidth 32 = w := by
  rw [setWidth_low, ← h, BitVec.and_assoc]
  rfl

namespace Machine

/-- Merging field `m` of `w` into the named bits `P` of a word that already has the fields `D` of `w` gives a word that
has the fields `D` and `m` of `w`. -/
theorem merge_and_or {n : Nat} {r c w P D m : BitVec n} (hr : r &&& P = c &&& P) (hc : c &&& D = w &&& D)
    (hD : D &&& P = D) : ((r &&& P) &&& ~~~m ||| w &&& m) &&& (D ||| m) = w &&& (D ||| m) := by
  apply BitVec.eq_of_getLsbD_eq
  intro i hi
  have hri := congrArg (BitVec.getLsbD · i) hr
  have hci := congrArg (BitVec.getLsbD · i) hc
  have hDi := congrArg (BitVec.getLsbD · i) hD
  simp only [BitVec.getLsbD_and, BitVec.getLsbD_or, BitVec.getLsbD_not, hi, decide_true, Bool.true_and] at hri hci hDi ⊢
  cases hd : D.getLsbD i <;> cases hm : m.getLsbD i <;> simp_all

theorem mask_and_named (x : CsrField) : x.mask &&& 0x007F07FF = x.mask := by
  cases x <;> rfl

theorem doneMask_and_named (x : CsrField) : doneMask x &&& 0x007F07FF = doneMask x := by
  cases x <;> rfl

/-- R193: the fields done grow by the field written. -/
theorem doneMask_after {x g : CsrField} (h : x.after = some g) : doneMask g = doneMask x ||| x.mask := by
  revert h
  cases x <;> cases g <;> decide

/-- R193: with the last field all named bits are done. -/
theorem doneMask_last {x : CsrField} (h : x.after = none) : doneMask x ||| x.mask = 0x007F07FF := by
  revert h
  cases x <;> decide

/-- R193: the word put back has no bit outside the named fields. -/
theorem fieldUpdate_and_named (x : CsrField) (r w : Word) :
    fieldUpdate x r w &&& 0x007F07FF = fieldUpdate x r w := by
  unfold fieldUpdate
  rw [BitVec.and_or_distrib_right, BitVec.and_assoc w, mask_and_named, BitVec.and_comm _ (~~~x.mask),
    BitVec.and_assoc, BitVec.and_assoc r, BitVec.and_self]

end Machine

end Sys2Proof
end

section
/-! SUPPORT. The engine contract slot by slot, what one CALC step can do, and the frames of CALC and of the commands. -/

namespace Sys2Proof.Machine

/-! ### The engine -/

theorem engineIdle_iff {e : Engine} : engineIdle e = true ↔ e.erdy = false ∧ e.slot = .empty := by
  simp [engineIdle]

/-- R239: a CALC accepted with the engine idle leaves it as it is. -/
theorem engineAtAcceptance_of_idle {n : Nat} {e : Engine} (h : engineIdle e = true) : engineAtAcceptance n e = e :=
  if_pos h

theorem engineNargs_eq (e : Engine) : engineNargs e = if e.csr.getLsbD 20 then .two else .one :=
  ofBit_extractLsb' e.csr 20

theorem engineNres_eq (e : Engine) : engineNres e = if e.csr.getLsbD 19 then .two else .one :=
  ofBit_extractLsb' e.csr 19

/-- R41 item 2: the first WDATA write. -/
theorem engineWriteData_first {n : Nat} {w : Word} {e : Engine}
    (h : e.slot = .empty ∨ e.slot = .ready0 ∨ e.slot = .ready1) :
    engineWriteData n w e = { e with
      erdy := false, slot := if e.csr.getLsbD 20 then .collecting else .computing, arg1 := w } := by
  unfold engineWriteData
  rw [engineNargs_eq]
  rcases h with h | h | h <;> rw [h] <;> cases e.csr.getLsbD 20 <;> rfl

/-- R41 item 2: the second WDATA write. -/
theorem engineWriteData_second {n : Nat} {w : Word} {e : Engine} (h : e.slot = .collecting) :
    engineWriteData n w e = { e with slot := .computing, arg2 := w } := by
  unfold engineWriteData
  rw [h]

/-- R41 item 3: the engine's own step. -/
theorem engineFinish_computing {e1 e2 : Word} {e : Engine} (h : e.slot = .computing) :
    engineFinish e1 e2 e = { e with erdy := true, slot := .ready0, res1 := e1, res2 := e2 } := by
  unfold engineFinish
  rw [h]

/-- R41 item 3: there is no such step outside `computing`. -/
theorem engineFinish_of_ne {e1 e2 : Word} {e : Engine} (h : e.slot ≠ .computing) : engineFinish e1 e2 e = e := by
  unfold engineFinish
  split
  · exact absurd ‹_› h
  all_goals rfl

/-- R41 item 5: the first RDATA read. -/
theorem engineReadData_first {c : Cfg} {n : Nat} {e : Engine} (hc : countsMatch c e = true) (h : e.slot = .ready0) :
    engineReadData c n e = (e.res1,
      if e.csr.getLsbD 19 then { e with slot := .ready1 } else { e with erdy := false, slot := .empty }) := by
  unfold engineReadData
  rw [if_pos hc, engineNres_eq, h]
  cases e.csr.getLsbD 19 <;> rfl

/-- R41 item 5: the second RDATA read. -/
theorem engineReadData_second {c : Cfg} {n : Nat} {e : Engine} (hc : countsMatch c e = true) (h : e.slot = .ready1) :
    engineReadData c n e = (e.res2, { e with erdy := false, slot := .empty }) := by
  unfold engineReadData
  rw [if_pos hc, h]

/-- R41 item 2: a WDATA write within the contract does not set RDY. -/
theorem engineWriteData_erdy {n : Nat} {w : Word} {e : Engine} (h : e.slot ≠ .computing) (hr : e.erdy = false) :
    (engineWriteData n w e).erdy = false := by
  cases hs : e.slot with
  | empty => rw [engineWriteData_first (.inl hs)]
  | ready0 => rw [engineWriteData_first (.inr (.inl hs))]
  | ready1 => rw [engineWriteData_first (.inr (.inr hs))]
  | collecting => rw [engineWriteData_second hs]; exact hr
  | computing => exact absurd hs h

/-- R41 item 4: below bit 31 a CSR read shows the named bits in force. -/
theorem engineReadCsr_and_low (e : Engine) :
    engineReadCsr e &&& 0x7FFFFFFF = e.csr.setWidth 32 &&& 0x007F07FF := by
  unfold engineReadCsr
  cases e.erdy
  · simp [BitVec.and_assoc]
  · simp [BitVec.and_or_distrib_right, BitVec.and_assoc]

/-- R41 item 4: the named bits of a CSR read are those in force. -/
theorem engineReadCsr_and_named (e : Engine) :
    engineReadCsr e &&& 0x007F07FF = e.csr.setWidth 32 &&& 0x007F07FF := by
  rw [show (0x007F07FF : Word) = 0x7FFFFFFF &&& 0x007F07FF from rfl, ← BitVec.and_assoc, engineReadCsr_and_low,
    BitVec.and_assoc]
  rfl

/-! ### One CALC step -/

variable {s t : State}

/-- What the control write can do (R193), when it answers a next state. -/
theorem writeControl_next {w : Word} (h : writeControl w s = .next t) :
    (s.cfg.csrWriteMode = .single ∧
      t = { accessed s (clockedEngine s (engineWriteCsr w s.engine)) (.write (csrAddr s.cfg) w) with seq := .wr1 }) ∨
    (s.cfg.csrWriteMode = .perField ∧ s.cfgHeld = none ∧
      t = { accessed s (clockedRead s (engineReadCsr s.engine, s.engine)).2
          (.read (csrAddr s.cfg) (clockedRead s (engineReadCsr s.engine, s.engine)).1) with
        cfgHeld := some (clockedRead s (engineReadCsr s.engine, s.engine)).1 }) ∨
    ∃ r, s.cfg.csrWriteMode = .perField ∧ s.cfgHeld = some r ∧
      ∃ u, u = accessed s (clockedEngine s (engineWriteCsr (fieldUpdate s.cfgField r w) s.engine))
          (.write (csrAddr s.cfg) (fieldUpdate s.cfgField r w)) ∧
        ((∃ g, s.cfgField.after = some g ∧ t = { u with cfgHeld := none, cfgField := g }) ∨
          s.cfgField.after = none ∧ t = { u with cfgHeld := none, cfgField := .func, seq := .wr1 }) := by
  rw [writeControl_eq] at h
  split at h
  · injection h with h
    exact .inl ⟨‹_›, h.symm⟩
  · split at h
    · injection h with h
      exact .inr (.inl ⟨‹_›, ‹_›, h.symm⟩)
    · refine .inr (.inr ⟨_, ‹_›, ‹_›, _, rfl, ?_⟩)
      dsimp only at h
      split at h <;> injection h with h
      · exact .inl ⟨_, ‹_›, h.symm⟩
      · exact .inr ⟨‹_›, h.symm⟩

/-- What one step of CALC.f can do (R31, R186 to R197), when it answers a next state: one case for each SEQ. -/
theorem runCalc_next {f : Func} {x : Fields} (h : runCalc f x s = .next t) :
    (s.seq = .idle ∧ acceptCalc f s = .next t) ∨
    (s.seq = .cfg ∧
      writeControl (csrWord x.argSize x.resSize s.latch.ln s.latch.lr x.scale x.precision f.code) s = .next t) ∨
    (s.seq = .wr1 ∧ t = { accessed s (clockedEngine s (engineWriteData s.draws s.latch.lw1 s.engine))
        (.write (wdataAddr s.cfg) s.latch.lw1) with seq := afterArg1 s.latch.ln }) ∨
    (s.seq = .wr2 ∧ t = { accessed s (clockedEngine s (engineWriteData s.draws s.latch.lw2 s.engine))
        (.write (wdataAddr s.cfg) s.latch.lw2) with seq := .poll }) ∨
    (s.seq = .poll ∧ ∃ y, y = clockedRead s (engineReadCsr s.engine, s.engine) ∧
      t = { accessed s y.2 (.read (csrAddr s.cfg) y.1) with seq := if rdy y.1 then .rd1 else .poll }) ∨
    (s.seq = .rd1 ∧ ∃ y, y = clockedRead s (engineReadData s.cfg s.draws s.engine) ∧
      t = { accessed s y.2 (.read (rdataAddr s.cfg) y.1) with
        r1 := ⟨cellFromWord s.cfg.fmt y.1 s.latch.ls ((s.cfg.desc.of f).post1.value s.cfg.pi), true⟩
        seq := afterResult1 s.latch.lr }) ∨
    (s.seq = .rd2 ∧ ∃ y, y = clockedRead s (engineReadData s.cfg s.draws s.engine) ∧
      t = { accessed s y.2 (.read (rdataAddr s.cfg) y.1) with
        r2 := ⟨cellFromWord s.cfg.fmt y.1 s.latch.ls ((s.cfg.desc.of f).post2.value s.cfg.pi), true⟩
        seq := .idle }) := by
  unfold runCalc at h
  cases hq : s.seq with
  | idle =>
    simp only [hq] at h
    exact .inl ⟨rfl, h⟩
  | cfg =>
    simp only [hq] at h
    exact .inr (.inl ⟨rfl, h⟩)
  | wr1 =>
    simp only [hq, writeArg1_eq] at h
    injection h with h
    exact .inr (.inr (.inl ⟨rfl, h.symm⟩))
  | wr2 =>
    simp only [hq, writeArg2_eq] at h
    injection h with h
    exact .inr (.inr (.inr (.inl ⟨rfl, h.symm⟩)))
  | poll =>
    simp only [hq, pollReady_eq] at h
    injection h with h
    exact .inr (.inr (.inr (.inr (.inl ⟨rfl, _, rfl, h.symm⟩))))
  | rd1 =>
    simp only [hq, readResult1_eq] at h
    injection h with h
    exact .inr (.inr (.inr (.inr (.inr (.inl ⟨rfl, _, rfl, h.symm⟩)))))
  | rd2 =>
    simp only [hq, readResult2_eq] at h
    injection h with h
    exact .inr (.inr (.inr (.inr (.inr (.inr ⟨rfl, _, rfl, h.symm⟩)))))

/-- The control write leaves the registers of the host alone. -/
theorem writeControl_frame {w : Word} (h : writeControl w s = .next t) :
    t.cfg = s.cfg ∧ t.fsel = s.fsel ∧ t.a1 = s.a1 ∧ t.a2 = s.a2 ∧ t.clock = s.clock ∧ t.agenda = s.agenda ∧
      t.reply = s.reply := by
  rcases writeControl_next h with ⟨-, rfl⟩ | ⟨-, -, rfl⟩ | ⟨r, -, -, u, rfl, ⟨g, -, rfl⟩ | ⟨-, rfl⟩⟩ <;> simp

/-- R32: what no step of a CALC changes. -/
theorem runCalc_frame {f : Func} {x : Fields} (h : runCalc f x s = .next t) :
    t.cfg = s.cfg ∧ t.fsel = s.fsel ∧ t.a1 = s.a1 ∧ t.a2 = s.a2 ∧ t.clock = s.clock ∧ t.agenda = s.agenda ∧
      t.reply = s.reply := by
  rcases runCalc_next h with ⟨-, h⟩ | ⟨-, h⟩ | ⟨-, rfl⟩ | ⟨-, rfl⟩ | ⟨-, y, -, rfl⟩ | ⟨-, y, -, rfl⟩ | ⟨-, y, -, rfl⟩
  · obtain ⟨-, -, -, -, rfl⟩ := acceptCalc_next h
    simp
  · exact writeControl_frame h
  all_goals simp

/-- R196: the soft scale of R1 after RD1. -/
theorem runCalc_rd1_soft {f : Func} {x : Fields} (hq : s.seq = .rd1) (h : runCalc f x s = .next t) :
    t.r1.cell.soft = (s.cfg.desc.of f).post1.value s.cfg.pi := by
  simp only [runCalc, hq, readResult1_eq] at h
  injection h with h
  rw [← h]
  rfl

/-- R196: the soft scale of R2 after RD2. -/
theorem runCalc_rd2_soft {f : Func} {x : Fields} (hq : s.seq = .rd2) (h : runCalc f x s = .next t) :
    t.r2.cell.soft = (s.cfg.desc.of f).post2.value s.cfg.pi := by
  simp only [runCalc, hq, readResult2_eq] at h
  injection h with h
  rw [← h]
  rfl

/-- R186: the counts an acceptance latches. -/
theorem runCalc_idle_counts {f : Func} {x : Fields} (hq : s.seq = .idle) (h : runCalc f x s = .next t) :
    t.latch.ln = (s.cfg.desc.of f).nargs ∧ t.latch.lr = (s.cfg.desc.of f).nres := by
  simp only [runCalc, hq] at h
  obtain ⟨-, -, -, -, rfl⟩ := acceptCalc_next h
  exact ⟨rfl, rfl⟩

/-! ### The commands -/

/-- R180: a command that answers a next state found SEQ at `idle`. -/
theorem execCommand_next_idle {c : Command} (h : execCommand c s = .next t) : s.seq = .idle := by
  cases c with
  | create code => exact (createOp_next h).1
  | setArg1 v => exact (setArg1Op_next h).1
  | setArg2 v => exact (setArg2Op_next h).1
  | setArg v => exact (setArgOp_next h).1
  | setVec x y => exact (setVecOp_next h).1
  | getRes => exact (getResOp_next h).1
  | getRes2 => exact (getRes2Op_next h).1
  | getScale => exact (getScaleOp_next h).1
  -- CALC, the constructor left, is refused here.
  | _ => cases h

end Sys2Proof.Machine
end

section
/-! PROOFS. The statements of 10_state.md that need no invariant. -/

namespace Sys2Proof.Machine

/-- Settles O43, command by command from what each can do. -/
theorem commandFrame : Obligations.CommandFrame := by
  intro c s t h
  cases c with
  | create code =>
    obtain ⟨-, f, -, rfl⟩ := createOp_next h
    simp
  | setArg1 v =>
    obtain ⟨-, -, rfl⟩ := setArg1Op_next h
    simp
  | setArg2 v =>
    obtain ⟨-, -, k1, k2, p, -, rfl⟩ := setArg2Op_next h
    simp
  | setArg v =>
    obtain ⟨-, -, k1, -, rfl⟩ := setArgOp_next h
    simp
  | setVec x y =>
    obtain ⟨-, -, -, rfl⟩ := setVecOp_next h
    simp
  | getRes =>
    obtain ⟨-, -, rfl⟩ := getResOp_next h
    simp
  | getRes2 =>
    obtain ⟨-, -, -, -, rfl⟩ := getRes2Op_next h
    simp
  | getScale =>
    obtain ⟨-, -, rfl⟩ := getScaleOp_next h
    simp
  -- CALC, the constructor left, is refused here.
  | _ => cases h

/-- Settles O15: each action keeps the configuration, CALC and the commands by their frames. -/
theorem noStepChangesTheConfiguration : Obligations.NoStepChangesTheConfiguration := by
  intro s t h
  obtain ⟨-, ⟨i, -, h⟩ | ⟨c, -, h⟩ | ⟨e1, e2, -, rfl⟩ | ⟨on, -, rfl⟩ | ⟨-, rfl⟩ | ⟨-, rfl⟩⟩ := step_next h
  · rw [exec_eq_runCalc] at h
    exact (runCalc_frame h).1
  · exact (commandFrame c _ t h).1
  all_goals simp

/-- Settles O26: a result cell takes the post-scale of its function's descriptor and an acceptance its counts; the table
of R23 gives their values. -/
theorem defaultPostScalesAndCounts : Obligations.DefaultPostScalesAndCounts := by
  intro i s t hd h
  rw [exec_eq_runCalc] at h
  refine ⟨fun hq => ?_, fun hq => ?_, fun hq => ?_⟩
  · have hsoft := runCalc_rd1_soft hq h
    rw [hd] at hsoft
    cases i <;> exact hsoft
  · have hsoft := runCalc_rd2_soft hq h
    rw [hd] at hsoft
    cases i with
    | calcCos | calcSin | calcPhase | calcMod => exact hsoft
    | calcAtan | calcCosh | calcSinh | calcAtanh | calcLn | calcSqrt => trivial
  · have hcounts := runCalc_idle_counts hq h
    rw [hd] at hcounts
    cases i <;> exact hcounts

/-- Settles O33: the named bits of the CSR bits read are those of the word written. -/
theorem csrReadsWhatWasWritten : Obligations.CsrReadsWhatWasWritten := by
  intro w e
  refine ⟨rfl, rdy_engineReadCsr _, ?_⟩
  calc engineReadCsr (engineWriteCsr w e) &&& 0x7FFFFFFF
      = (w.extractLsb' 0 23).setWidth 32 &&& 0x007F07FF := engineReadCsr_and_low _
    _ = w &&& 0x007F07FF := by
      rw [setWidth_low, BitVec.and_assoc]
      rfl

/-- Settles O34, slot by slot. -/
theorem engineContract : Obligations.EngineContract := by
  intro c n w e1 e2 e
  exact ⟨engineWriteData_first, engineWriteData_second, engineFinish_computing, engineFinish_of_ne,
    engineReadData_first, engineReadData_second⟩

/-- Settles O11: with the move at the head of the agenda the next action is known, and `perform` does it. -/
theorem stepPerformsTheMoveNext : Obligations.StepPerformsTheMoveNext := by
  intro s rest hw
  refine ⟨?_, ?_, ?_, ?_, ?_, ?_, ?_⟩
  · intro c hc ha
    have hn : nextAction s = .command c := by
      simp [nextAction, hw, ha]
    rw [step, hn, perform, takeMove, ha, List.tail_cons]
  · intro e1 e2 ha
    have hn : nextAction s = .engine e1 e2 := by simp [nextAction, hw, ha]
    have hs : step s = .next (engineMove e1 e2 { s with agenda := rest }) := by
      rw [step, hn, perform, takeMove, ha, List.tail_cons]
    rw [hs]
    exact ⟨fun hc => congrArg Host.Outcome.next (engineMove_on { s with agenda := rest } e1 e2 hc),
      fun hc => congrArg Host.Outcome.next (engineMove_off { s with agenda := rest } e1 e2 hc)⟩
  · intro ha
    have hn : nextAction s = .clock true := by simp [nextAction, hw, ha]
    rw [step, hn, perform, takeMove, ha, List.tail_cons, setClock_true]
  · intro ha
    have hn : nextAction s = .clock false := by simp [nextAction, hw, ha]
    rw [step, hn, perform, takeMove, ha, List.tail_cons, setClock_false]
  · intro ha
    have hn : nextAction s = .reset := by simp [nextAction, hw, ha]
    rw [step, hn, perform, takeMove, ha, List.tail_cons]
  · intro hq ha
    have hn : nextAction s = .wait := by simp [nextAction, hw, ha, sequencerTurn, hq]
    rw [step, hn, perform, takeMove, ha, List.tail_cons]
  · intro hq ha
    have hn : nextAction s = .wait := by simp [nextAction, hw, ha, sequencerTurn, hq]
    rw [step, hn, perform, takeMove, ha, List.tail_nil, ← ha]

end Sys2Proof.Machine
end

section
/-! PROOFS. Noninterference of the soft scales. -/

namespace Sys2Proof.Machine

/-- `s` with other soft scales in A1 and A2. -/
def setSofts (x y : Value) (s : State) : State :=
  { s with a1 := { s.a1 with cell := { s.a1.cell with soft := x } },
           a2 := { s.a2 with cell := { s.a2.cell with soft := y } } }

theorem andThen_ite {α β : Type} (p : Prop) [Decidable p] (a b : Host.Outcome α Fault Refusal)
    (k : α → Host.Outcome β Fault Refusal) :
    andThen (if p then a else b) k = if p then andThen a k else andThen b k := by
  split <;> rfl

/-- R26: an acceptance reads raws and a scale, no soft scale. -/
theorem acceptCalc_setSofts (f : Func) (x y : Value) (s : State) :
    acceptCalc f (setSofts x y s) = andThen (acceptCalc f s) fun t => .next (setSofts x y t) := by
  unfold acceptCalc
  dsimp only
  rw [andThen_ite, andThen_ite]
  rfl

/-- R193: the control write reads no soft scale. -/
theorem writeControl_setSofts (w : Word) (x y : Value) (s : State) :
    writeControl w (setSofts x y s) = andThen (writeControl w s) fun t => .next (setSofts x y t) := by
  rw [writeControl_eq, writeControl_eq]
  simp only [setSofts]
  split
  · rfl
  · split
    · rfl
    · split <;> rfl

/-- R26, R15: a CALC step commutes with a change of the soft scales. -/
theorem runCalc_setSofts (f : Func) (z : Fields) (x y : Value) (s : State) :
    runCalc f z (setSofts x y s) = andThen (runCalc f z s) fun t => .next (setSofts x y t) := by
  have hseq : (setSofts x y s).seq = s.seq := rfl
  unfold runCalc
  rw [hseq]
  cases s.seq with
  | idle => exact acceptCalc_setSofts f x y s
  | cfg => exact writeControl_setSofts _ x y s
  | wr1 => simp only [writeArg1_eq]; rfl
  | wr2 => simp only [writeArg2_eq]; rfl
  | poll => simp only [pollReady_eq]; rfl
  | rd1 => simp only [readResult1_eq]; rfl
  | rd2 => simp only [readResult2_eq]; rfl

/-- Settles O29: the step commutes with a change of the soft scales. -/
theorem softScaleNeverReachesTheBus : Obligations.SoftScaleNeverReachesTheBus := by
  intro i s t x y h
  rw [exec_eq_runCalc] at h
  have hcomm := runCalc_setSofts i.func i.fields x y s
  rw [h] at hcomm
  rw [exec_eq_runCalc]
  exact hcomm

end Sys2Proof.Machine
end

section
/-! PROOFS. Every cell the block makes is legal. -/

namespace Sys2Proof.Machine

/-- R114: in a table that is not empty the lookup gives an index of it. -/
theorem findSmallestScaleIndex_lt {t : List Range} (h : t ≠ []) (v : Value) :
    findSmallestScaleIndex t v < t.length := by
  have hpos := List.length_pos_iff.2 h
  unfold findSmallestScaleIndex
  cases hf : t.findIdx? fun r => rangeContains r v with
  | none => simp only [Option.getD_none]; omega
  | some j => exact (List.findIdx?_eq_some_iff_getElem.1 hf).1

/-- The range of a lookup is one of the table's. -/
theorem rangeAt_mem {t : List Range} (h : t ≠ []) (v : Value) : rangeAt t (findSmallestScaleIndex t v) ∈ t := by
  have hlt := findSmallestScaleIndex_lt h v
  rw [rangeAt, List.getD_eq_getElem _ _ hlt]
  exact List.getElem_mem hlt

theorem encodeValue_raw_mem (c : Cfg) (k : Kind) (v : Value) : RawInRange c.fmt (encodeValue c k v).raw :=
  satW_mem c.fmt _

/-- R84, R112: an exponent of 0 to 7 is held by the three bits of SCALE. -/
theorem toNat_ofInt_three {e : Int} (h0 : 0 ≤ e) (h7 : e ≤ 7) : ((BitVec.ofInt 3 e).toNat : Int) = e := by
  rw [BitVec.toNat_ofInt]
  omega

/-- Settles O53: saturation bounds the raw, and the lookup's range lies in a table whose exponents are 0 to 7. -/
theorem encodedCellIsLegal : Obligations.EncodedCellIsLegal := by
  intro c k v hw
  obtain ⟨-, -, -, hkinds⟩ := (Cfg.wf_iff c).1 hw
  obtain ⟨-, hne, -, hexp⟩ := (KindSpec.wf_iff _).1 (hkinds k)
  have hmem := rangeAt_mem hne v
  obtain ⟨h0, h7, -⟩ := hexp _ hmem
  refine ⟨encodeValue_raw_mem c k v, rfl, ?_⟩
  rw [← ScaleTable.ranges_map_exp]
  exact (toNat_ofInt_three h0 h7).symm ▸ List.mem_map_of_mem hmem

end Sys2Proof.Machine
end

section
/-! PROOFS. Reset. -/

namespace Sys2Proof.Machine

theorem cfgReset_wf : Cfg.reset.wf = true := by decide +kernel

/-- Settles O46: at reset the block has nothing to do but wait. -/
theorem resetLeavesTheBlockIdleAndUnwritten : Obligations.ResetLeavesTheBlockIdleAndUnwritten := by
  refine ⟨?_, fun r => ⟨rfl, rfl⟩, ?_⟩
  · rintro s (rfl | ⟨r, rfl⟩)
    · exact ⟨rfl, rfl, rfl, rfl, rfl, rfl, rfl⟩
    · exact ⟨rfl, rfl, rfl, rfl, rfl, rfl, rfl⟩
  · obtain ⟨-, -, -, -, -, -, hwait⟩ := stepPerformsTheMoveNext State.reset [] cfgReset_wf
    exact hwait rfl rfl

/-- Nothing is written at reset, so the invariant of the block says nothing of its registers. -/
theorem inv_reset : State.reset.Inv where
  cfg_wf := cfgReset_wf
  a1_legal := nofun
  a2_legal := nofun
  r1_legal := nofun
  r2_legal := nofun
  created := ⟨Iff.rfl, Iff.rfl⟩
  r1_owned := nofun
  r2_owned := nofun
  running := fun h => absurd rfl h
  wr2_two := nofun
  rd2_two := nofun
  cfg_place := fun _ => ⟨rfl, rfl⟩

theorem engineSync_reset_clocked : { State.reset with clock := true }.EngineSync where
  clocked := rfl
  moves := nofun
  arities := fun f => by cases f <;> rfl
  phase := rfl

/-- Settles O47. -/
theorem invariantsHoldAtReset : Obligations.InvariantsHoldAtReset :=
  ⟨inv_reset, .inl rfl, engineSync_reset_clocked⟩

end Sys2Proof.Machine
end

section
/-! SUPPORT. The instruction a state of the invariant stands before, and what a step from such a state can do. -/

namespace Sys2Proof.Machine

/-- The operands of the CALC that the operand registers call for (R187 to R191). -/
def selectedFields (s : State) : Fields :=
  ⟨.ofFmt s.cfg.fmt, .ofFmt s.cfg.fmt, s.a1.cell.scale, s.cfg.precision⟩

variable {s t : State}

theorem decode_selectedWord (s : State) :
    decode s.cfg.desc (selectedWord s) = .ok (.make s.fsel.func (selectedFields s)) :=
  decode_csrWord s.cfg.desc s.fsel.func (selectedFields s)

/-- R30: with the latches of FSEL, A1 and A2 the running transaction has the control word of the selected CALC. -/
theorem latchedWord_eq_selectedWord (h : s.latch = calledLatches s) : latchedWord s = selectedWord s := by
  rw [latchedWord, h]
  rfl

/-- R66: in the invariant the instruction fetched is always the selected CALC. -/
theorem State.Inv.fetch_eq (h : s.Inv) : fetch s = .ok (.make s.fsel.func (selectedFields s)) := by
  have hword : controlWord s = selectedWord s := by
    unfold controlWord
    split
    · rfl
    · exact latchedWord_eq_selectedWord (h.running ‹_›).2
  rw [fetch, hword, decode_selectedWord]

/-- What one step from a state of the invariant can do: the selected CALC goes on, or the head of the agenda moves, or
the block waits. -/
theorem State.Inv.step_next (h : s.Inv) (hs : step s = .next t) :
    (runCalc s.fsel.func (selectedFields s) (takeMove s) = .next t) ∨
    (∃ c rest, s.agenda = .command c :: rest ∧ execCommand c (takeMove s) = .next t) ∨
    (∃ e1 e2 rest, s.agenda = .engine e1 e2 :: rest ∧ t = engineMove e1 e2 (takeMove s)) ∨
    (∃ on rest, s.agenda = .clock on :: rest ∧ t = setClock on (takeMove s)) ∨
    (∃ rest, s.agenda = .reset :: rest ∧ t = hardwareReset (takeMove s)) ∨
    t = takeMove s := by
  rw [step] at hs
  rcases nextAction_cases s with ⟨r, ha⟩ | ⟨i, ha, hf⟩ | ha | ⟨c, rest, ha, hm⟩ | ⟨e1, e2, rest, ha, hm⟩ |
    ⟨on, rest, ha, hm⟩ | ⟨rest, ha, hm⟩ <;> rw [ha] at hs
  · cases hs
  · rw [h.fetch_eq] at hf
    injection hf with hf
    rw [← hf, perform, exec_eq_runCalc, make_func, make_fields] at hs
    exact .inl hs
  · injection hs with hs
    exact .inr (.inr (.inr (.inr (.inr hs.symm))))
  · exact .inr (.inl ⟨c, rest, hm, hs⟩)
  · injection hs with hs
    exact .inr (.inr (.inl ⟨e1, e2, rest, hm, hs.symm⟩))
  · injection hs with hs
    exact .inr (.inr (.inr (.inl ⟨on, rest, hm, hs.symm⟩)))
  · injection hs with hs
    exact .inr (.inr (.inr (.inr (.inl ⟨rest, hm, hs.symm⟩))))

end Sys2Proof.Machine
end

section
/-! PROOFS. Every step keeps the invariant of the block: first the updates a step is made of, then the actions. -/

namespace Sys2Proof.Machine

variable {s t : State}

/-! ### The raws a step can write -/

theorem wordToRaw_mem (f : Fmt) (w : Word) : RawInRange f (wordToRaw f w) := by
  cases f with
  | q1_15 =>
    have hlo := BitVec.le_toInt (w.extractLsb' 0 16)
    have hhi := BitVec.toInt_lt (x := w.extractLsb' 0 16)
    simp only [RawInRange, rawMin, rawMax, wordToRaw, Fmt.width]
    omega
  | q1_31 =>
    have hlo := BitVec.le_toInt w
    have hhi := BitVec.toInt_lt (x := w)
    simp only [RawInRange, rawMin, rawMax, wordToRaw, Fmt.width]
    omega

theorem zeroCell_raw_mem (f : Fmt) : RawInRange f zeroCell.raw := by
  cases f <;> decide

theorem presetArg2_raw_mem (c : Cfg) (f : Func) : RawInRange c.fmt (presetArg2 c f).raw := by
  unfold presetArg2
  split
  · exact zeroCell_raw_mem _
  · exact zeroCell_raw_mem _
  · exact encodeValue_raw_mem ..

theorem vec2_raw_mem (c : Cfg) (k : Kind) (x y : Value) :
    RawInRange c.fmt (vec2 c k x y).1.raw ∧ RawInRange c.fmt (vec2 c k x y).2.raw := by
  unfold vec2
  split <;> exact ⟨encodeValue_raw_mem .., encodeValue_raw_mem ..⟩

/-! ### The updates -/

/-- The invariant says nothing of the engine, the clock, the agenda, the reply, the bus log and the counter. -/
theorem State.Inv.setEnvironment (h : s.Inv) (e : Engine) (c : Bool) (m : List Move) (p : Option Reply)
    (b : List BusAccess) (n : Nat) :
    State.Inv { s with engine := e, clock := c, agenda := m, reply := p, bus := b, draws := n } :=
  ⟨h.cfg_wf, h.a1_legal, h.a2_legal, h.r1_legal, h.r2_legal, h.created, h.r1_owned, h.r2_owned, h.running, h.wr2_two,
    h.rd2_two, h.cfg_place⟩

theorem State.Inv.takeMove (h : s.Inv) : (Machine.takeMove s).Inv := h.setEnvironment ..

theorem State.Inv.accessed (h : s.Inv) (e : Engine) (x : BusAccess) : (Machine.accessed s e x).Inv :=
  h.setEnvironment ..

theorem State.Inv.engineMove (h : s.Inv) (e1 e2 : Word) : (Machine.engineMove e1 e2 s).Inv := by
  unfold Machine.engineMove
  split <;> exact h.setEnvironment ..

theorem State.Inv.setClock (h : s.Inv) (on : Bool) : (Machine.setClock on s).Inv := by
  cases on <;> exact h.setEnvironment ..

theorem State.Inv.setA1 (h : s.Inv) (hq : s.seq = .idle) (hw : s.fsel.written = true) {c : Cell}
    (hc : RawInRange s.cfg.fmt c.raw) : State.Inv { s with a1 := ⟨c, true⟩ } :=
  { h with
    a1_legal := fun _ => hc
    created := ⟨by simp [hw], h.created.2⟩
    running := fun hr => absurd hq hr }

theorem State.Inv.setA2 (h : s.Inv) (hq : s.seq = .idle) (hw : s.fsel.written = true) {c : Cell}
    (hc : RawInRange s.cfg.fmt c.raw) : State.Inv { s with a2 := ⟨c, true⟩ } :=
  { h with
    a2_legal := fun _ => hc
    created := ⟨h.created.1, by simp [hw]⟩
    running := fun hr => absurd hq hr }

theorem State.Inv.setR1 (h : s.Inv) (hw : s.fsel.written = true) {c : Cell} (hc : RawInRange s.cfg.fmt c.raw) :
    State.Inv { s with r1 := ⟨c, true⟩ } :=
  { h with
    r1_legal := fun _ => hc
    r1_owned := fun _ => hw }

theorem State.Inv.setR2 (h : s.Inv) (hw : s.fsel.written = true) (h2 : (selected s).nres = .two) {c : Cell}
    (hc : RawInRange s.cfg.fmt c.raw) : State.Inv { s with r2 := ⟨c, true⟩ } :=
  { h with
    r2_legal := fun _ => hc
    r2_owned := fun _ => ⟨hw, h2⟩ }

/-- R193: the place of a field-by-field write may move while SEQ is at CFG in that mode. -/
theorem State.Inv.setPlace (h : s.Inv) (hq : s.seq = .cfg) (hm : s.cfg.csrWriteMode = .perField) (g : CsrField)
    (r : Option Word) : State.Inv { s with cfgField := g, cfgHeld := r } :=
  { h with
    cfg_place := fun hp => by
      rcases hp with hp | hp
      · exact absurd hq hp
      · rw [hm] at hp
        cases hp }

/-- R202: SEQ may move on within a transaction, to WR2 and RD2 only under two words. -/
theorem State.Inv.setSeq (h : s.Inv) (hr : s.seq ≠ .idle) (hp : s.cfgField = .func ∧ s.cfgHeld = none) {q : Seq}
    (h2 : q = .wr2 → s.latch.ln = .two) (h3 : q = .rd2 → s.latch.lr = .two) : State.Inv { s with seq := q } :=
  { h with
    running := fun _ => h.running hr
    wr2_two := h2
    rd2_two := h3
    cfg_place := fun _ => hp }

/-! ### The actions -/

/-- R186: an acceptance latches what FSEL, A1 and A2 call for. -/
theorem State.Inv.acceptCalc (h : s.Inv) (ht : Machine.acceptCalc s.fsel.func s = .next t) : t.Inv := by
  obtain ⟨hw, -, -, -, rfl⟩ := acceptCalc_next ht
  exact { h with
    running := fun _ => ⟨hw, rfl⟩
    wr2_two := nofun
    rd2_two := nofun
    cfg_place := fun _ => ⟨rfl, rfl⟩ }

/-- R193: the control write moves within CFG in the mode `per_field`, and to WR1 with no field write in progress. -/
theorem State.Inv.writeControl (h : s.Inv) (hq : s.seq = .cfg) {w : Word} (ht : Machine.writeControl w s = .next t) :
    t.Inv := by
  have hr : s.seq ≠ .idle := by simp [hq]
  rcases writeControl_next ht with ⟨hm, rfl⟩ | ⟨hm, hh, rfl⟩ | ⟨r, hm, -, u, rfl, ⟨g, -, rfl⟩ | ⟨-, rfl⟩⟩
  · exact (h.accessed _ _).setSeq hr (h.cfg_place (.inr hm)) nofun nofun
  · exact (h.accessed _ _).setPlace hq hm _ _
  · exact (h.accessed _ _).setPlace hq hm _ _
  · exact ((h.accessed _ _).setPlace hq hm .func none).setSeq hr ⟨rfl, rfl⟩ nofun nofun

theorem afterArg1_eq_wr2 {n : Count} (h : afterArg1 n = .wr2) : n = .two := by
  cases n
  · cases h
  · rfl

theorem afterResult1_eq_rd2 {n : Count} (h : afterResult1 n = .rd2) : n = .two := by
  cases n
  · cases h
  · rfl

theorem afterArg1_ne_rd2 (n : Count) : afterArg1 n ≠ .rd2 := by
  cases n <;> nofun

theorem afterResult1_ne_wr2 (n : Count) : afterResult1 n ≠ .wr2 := by
  cases n <;> nofun

/-- R31, R186 to R197: a step of the selected CALC keeps the invariant. -/
theorem State.Inv.runCalc (h : s.Inv) {x : Fields} (ht : Machine.runCalc s.fsel.func x s = .next t) : t.Inv := by
  have place : s.seq ≠ .cfg → s.cfgField = .func ∧ s.cfgHeld = none := fun hq => h.cfg_place (.inl hq)
  rcases runCalc_next ht with ⟨hq, ht⟩ | ⟨hq, ht⟩ | ⟨hq, rfl⟩ | ⟨hq, rfl⟩ | ⟨hq, y, -, rfl⟩ | ⟨hq, y, -, rfl⟩ |
    ⟨hq, y, -, rfl⟩
  case inl => exact h.acceptCalc ht
  case inr.inl => exact h.writeControl hq ht
  all_goals
    have hr : s.seq ≠ .idle := by simp [hq]
    have hp := place (by simp [hq])
    obtain ⟨hw, hl⟩ := h.running hr
  · exact (h.accessed _ _).setSeq hr hp afterArg1_eq_wr2 fun hn => absurd hn (afterArg1_ne_rd2 _)
  · exact (h.accessed _ _).setSeq hr hp nofun nofun
  · exact (h.accessed _ _).setSeq hr hp (by split <;> nofun) (by split <;> nofun)
  · exact ((h.accessed _ _).setR1 hw (wordToRaw_mem _ _)).setSeq hr hp
      (fun hn => absurd hn (afterResult1_ne_wr2 _)) afterResult1_eq_rd2
  · have hlr : (selected s).nres = .two := by
      rw [← h.rd2_two hq, hl]
      rfl
    exact ((h.accessed _ _).setR2 hw hlr (wordToRaw_mem _ _)).setSeq hr hp nofun nofun

/-- R181 to R185, R199 to R201: a command keeps the invariant. -/
theorem State.Inv.execCommand (h : s.Inv) {c : Command} (ht : Machine.execCommand c s = .next t) : t.Inv := by
  cases c with
  | create code =>
    obtain ⟨hq, f, -, rfl⟩ := createOp_next ht
    exact { h with
      a1_legal := fun _ => zeroCell_raw_mem _
      a2_legal := fun _ => presetArg2_raw_mem ..
      r1_legal := nofun
      r2_legal := nofun
      created := ⟨Iff.rfl, Iff.rfl⟩
      r1_owned := nofun
      r2_owned := nofun
      running := fun hr => absurd hq hr }
  | setArg1 v =>
    obtain ⟨hq, hw, rfl⟩ := setArg1Op_next ht
    exact h.setA1 hq hw (encodeValue_raw_mem ..)
  | setArg2 v =>
    obtain ⟨hq, hw, k1, k2, p, -, rfl⟩ := setArg2Op_next ht
    exact h.setA2 hq hw (encodeValue_raw_mem ..)
  | setArg v =>
    obtain ⟨hq, hw, k1, -, rfl⟩ := setArgOp_next ht
    exact h.setA1 hq hw (encodeValue_raw_mem ..)
  | setVec x y =>
    obtain ⟨hq, hw, -, rfl⟩ := setVecOp_next ht
    obtain ⟨hx, hy⟩ := vec2_raw_mem s.cfg (selected s).kind1 x y
    exact (h.setA1 hq hw hx).setA2 hq hw hy
  | getRes =>
    obtain ⟨-, -, rfl⟩ := getResOp_next ht
    exact h.setEnvironment ..
  | getRes2 =>
    obtain ⟨-, -, -, -, rfl⟩ := getRes2Op_next ht
    exact h.setEnvironment ..
  | getScale =>
    obtain ⟨-, -, rfl⟩ := getScaleOp_next ht
    exact h.setEnvironment ..
  -- CALC, the constructor left, is refused here.
  | _ => cases ht

/-- R230, R44: a hardware reset leaves nothing written. -/
theorem State.Inv.hardwareReset (h : s.Inv) : (Machine.hardwareReset s).Inv where
  cfg_wf := h.cfg_wf
  a1_legal := nofun
  a2_legal := nofun
  r1_legal := nofun
  r2_legal := nofun
  created := ⟨Iff.rfl, Iff.rfl⟩
  r1_owned := nofun
  r2_owned := nofun
  running := fun hr => absurd rfl hr
  wr2_two := nofun
  rd2_two := nofun
  cfg_place := fun _ => ⟨rfl, rfl⟩

/-- Settles O48: each action keeps the invariant. -/
theorem everyStepKeepsTheInvariant : Obligations.EveryStepKeepsTheInvariant := by
  intro s t h hs
  rcases h.step_next hs with ht | ⟨c, rest, -, ht⟩ | ⟨e1, e2, rest, -, rfl⟩ | ⟨on, rest, -, rfl⟩ | ⟨rest, -, rfl⟩ | rfl
  · exact h.takeMove.runCalc ht
  · exact h.takeMove.execCommand ht
  · exact h.takeMove.engineMove e1 e2
  · exact h.takeMove.setClock on
  · exact h.takeMove.hardwareReset
  · exact h.takeMove

end Sys2Proof.Machine
end

section
/-! PROOFS. Every step keeps block and engine in step, and nothing but the engine's own step sets RDY. -/

namespace Sys2Proof.Machine

variable {s t : State}

/-! ### The control word in force -/

/-- In the invariant CFG writes the latched word. -/
theorem csrWord_selectedFields (h : s.latch = calledLatches s) :
    csrWord (selectedFields s).argSize (selectedFields s).resSize s.latch.ln s.latch.lr (selectedFields s).scale
      (selectedFields s).precision s.fsel.func.code = latchedWord s := by
  rw [latchedWord, h]
  rfl

theorem engineNargs_of_csrInForce (h : csrInForce s) : engineNargs s.engine = s.latch.ln := by
  rw [engineNargs, h, extractLsb'_of_low _ (by decide), latchedWord, csrWord_nargs, ofBit_bit_count]

theorem engineNres_of_csrInForce (h : csrInForce s) : engineNres s.engine = s.latch.lr := by
  rw [engineNres, h, extractLsb'_of_low _ (by decide), latchedWord, csrWord_nres, ofBit_bit_count]

/-- R241: with the control word of the transaction in force the engine finds the counts it expects. -/
theorem countsMatch_of_csrInForce (hl : s.latch = calledLatches s)
    (ha : ∀ f, s.cfg.arities.of f = ⟨(s.cfg.desc.of f).nargs, (s.cfg.desc.of f).nres⟩) (h : csrInForce s) :
    countsMatch s.cfg s.engine = true := by
  have hf : Func.ofCode? (s.engine.csr.extractLsb' 0 4) = some s.fsel.func := by
    rw [h, extractLsb'_of_low _ (by decide), latchedWord, csrWord_func, hl]
    exact ofCode?_code _
  rw [countsMatch, hf, engineNargs_of_csrInForce h, engineNres_of_csrInForce h, hl]
  simp [ha, calledLatches, selected]

/-! ### The phases -/

/-- What RDY, the slot and CSR are at each SEQ: the last clause of `EngineSync`. -/
def EnginePhase (s : State) : Prop :=
  match s.seq with
  | .idle => engineIdle s.engine = true
  | .cfg => engineIdle s.engine = true ∧ fieldsInForce s
  | .wr1 => engineIdle s.engine = true ∧ csrInForce s
  | .wr2 => s.engine.slot = .collecting ∧ s.engine.erdy = false ∧ csrInForce s
  | .poll =>
    csrInForce s ∧
      (s.engine.slot = .computing ∧ s.engine.erdy = false ∨ s.engine.slot = .ready0 ∧ s.engine.erdy = true)
  | .rd1 => csrInForce s ∧ s.engine.slot = .ready0 ∧ s.engine.erdy = true
  | .rd2 => csrInForce s ∧ s.engine.slot = .ready1 ∧ s.engine.erdy = true

theorem engineSync_iff :
    s.EngineSync ↔ s.clock = true ∧ (∀ m ∈ s.agenda, m ≠ .reset ∧ m ≠ .clock false) ∧
      (∀ f, s.cfg.arities.of f = ⟨(s.cfg.desc.of f).nargs, (s.cfg.desc.of f).nres⟩) ∧ EnginePhase s :=
  ⟨fun h => ⟨h.clocked, h.moves, h.arities, h.phase⟩, fun ⟨hc, hm, ha, hp⟩ => ⟨hc, hm, ha, hp⟩⟩

theorem enginePhase_of_seq {q : Seq} (hq : s.seq = q) : EnginePhase s ↔ EnginePhase { s with seq := q } := by
  subst hq
  rfl

section Phase

variable (h : s.EngineSync)

include h

theorem State.EngineSync.takeMove : (Machine.takeMove s).EngineSync :=
  ⟨h.clocked, fun m hm => h.moves m (List.mem_of_mem_tail hm), h.arities, h.phase⟩

/-- A state with the same configuration, a clock and no other moves to come is in step if its phase is. -/
theorem State.EngineSync.of_phase (hcfg : t.cfg = s.cfg) (hclock : t.clock = s.clock) (hagenda : t.agenda = s.agenda)
    (hp : EnginePhase t) : t.EngineSync :=
  engineSync_iff.2 ⟨hclock ▸ h.clocked, hagenda ▸ h.moves, hcfg ▸ h.arities, hp⟩

theorem State.EngineSync.idle (hq : s.seq = .idle) : engineIdle s.engine = true :=
  (enginePhase_of_seq hq).1 h.phase

theorem State.EngineSync.cfg (hq : s.seq = .cfg) : engineIdle s.engine = true ∧ fieldsInForce s :=
  (enginePhase_of_seq hq).1 h.phase

theorem State.EngineSync.wr1 (hq : s.seq = .wr1) : engineIdle s.engine = true ∧ csrInForce s :=
  (enginePhase_of_seq hq).1 h.phase

theorem State.EngineSync.wr2 (hq : s.seq = .wr2) :
    s.engine.slot = .collecting ∧ s.engine.erdy = false ∧ csrInForce s :=
  (enginePhase_of_seq hq).1 h.phase

theorem State.EngineSync.poll (hq : s.seq = .poll) : csrInForce s ∧
    (s.engine.slot = .computing ∧ s.engine.erdy = false ∨ s.engine.slot = .ready0 ∧ s.engine.erdy = true) :=
  (enginePhase_of_seq hq).1 h.phase

theorem State.EngineSync.rd1 (hq : s.seq = .rd1) : csrInForce s ∧ s.engine.slot = .ready0 ∧ s.engine.erdy = true :=
  (enginePhase_of_seq hq).1 h.phase

theorem State.EngineSync.rd2 (hq : s.seq = .rd2) : csrInForce s ∧ s.engine.slot = .ready1 ∧ s.engine.erdy = true :=
  (enginePhase_of_seq hq).1 h.phase

/-- The engine computes only at POLL. -/
theorem State.EngineSync.poll_of_computing (hs : s.engine.slot = .computing) : s.seq = .poll := by
  cases hq : s.seq with
  | poll => rfl
  | idle => simp [(engineIdle_iff.1 (h.idle hq)).2] at hs
  | cfg => simp [(engineIdle_iff.1 (h.cfg hq).1).2] at hs
  | wr1 => simp [(engineIdle_iff.1 (h.wr1 hq).1).2] at hs
  | wr2 => simp [(h.wr2 hq).1] at hs
  | rd1 => simp [(h.rd1 hq).2.1] at hs
  | rd2 => simp [(h.rd2 hq).2.1] at hs

end Phase

/-! ### The control write -/

/-- R193: writing a field back adds it to the fields in force. -/
theorem fieldUpdate_and_doneMask {r w : Word} {csr : BitVec 23} {x : CsrField}
    (hr : r &&& 0x007F07FF = csr.setWidth 32 &&& 0x007F07FF)
    (hd : csr.setWidth 32 &&& doneMask x = w &&& doneMask x) :
    fieldUpdate x r w &&& (doneMask x ||| x.mask) = w &&& (doneMask x ||| x.mask) :=
  merge_and_or hr hd (doneMask_and_named x)

/-- R193: writing the last field back completes the control word. -/
theorem fieldUpdate_last {r w : Word} {csr : BitVec 23} {x : CsrField} (hx : x.after = none)
    (hw : w &&& 0x007F07FF = w) (hr : r &&& 0x007F07FF = csr.setWidth 32 &&& 0x007F07FF)
    (hd : csr.setWidth 32 &&& doneMask x = w &&& doneMask x) : fieldUpdate x r w = w := by
  have h := fieldUpdate_and_doneMask hr hd
  rwa [doneMask_last hx, fieldUpdate_and_named, hw] at h

theorem latchedWord_and_named (s : State) : latchedWord s &&& 0x007F07FF = latchedWord s :=
  csrWord_and_named ..

/-- A word without unnamed bits has bits 15:11 equal to 0. -/
theorem extractLsb'_unnamed {w : Word} (h : w &&& 0x007F07FF = w) : w.extractLsb' 11 5 = 0 := by
  rw [← h, BitVec.extractLsb'_and]
  simp

/-- R193: the control write keeps block and engine in step. -/
theorem State.EngineSync.writeControl (h : s.EngineSync) (hq : s.seq = .cfg)
    (ht : Machine.writeControl (latchedWord s) s = .next t) : EnginePhase t := by
  obtain ⟨hi, hdone, hlow, hheld⟩ := h.cfg hq
  rcases writeControl_next ht with ⟨-, rfl⟩ | ⟨-, hh, rfl⟩ | ⟨r, -, hh, u, rfl, ⟨g, hx, rfl⟩ | ⟨hx, rfl⟩⟩
  · rw [clockedEngine_on h.clocked]
    exact ⟨hi, rfl⟩
  · rw [clockedRead_on h.clocked]
    refine (enginePhase_of_seq (q := .cfg) (by exact hq)).2 ⟨hi, hdone, hlow, ?_⟩
    rintro r ⟨⟩
    exact engineReadCsr_and_named s.engine
  · have hu := fieldUpdate_and_named s.cfgField r (latchedWord s)
    rw [clockedEngine_on h.clocked]
    refine (enginePhase_of_seq (q := .cfg) (by exact hq)).2 ⟨hi, ?_, fun _ => ?_, fun _ => nofun⟩
    · calc ((fieldUpdate s.cfgField r (latchedWord s)).extractLsb' 0 23).setWidth 32 &&& doneMask g
          = fieldUpdate s.cfgField r (latchedWord s) &&& doneMask g := by rw [setWidth_low_of_and_named hu]
        _ = latchedWord s &&& doneMask g := by
          rw [doneMask_after hx]
          exact fieldUpdate_and_doneMask (hheld r hh) hdone
    · exact (extractLsb'_of_low _ (by decide)).trans (extractLsb'_unnamed hu)
  · have hu := fieldUpdate_last hx (latchedWord_and_named s) (hheld r hh) hdone
    rw [clockedEngine_on h.clocked, hu]
    exact ⟨hi, rfl⟩

/-! ### The CALC step -/

/-- R194, R202: the first argument word starts the collection or the calculation, as SEQ goes to WR2 or to POLL. -/
theorem State.EngineSync.writeArg1 (h : s.EngineSync) (hq : s.seq = .wr1) :
    EnginePhase { Machine.accessed s (engineWriteData s.draws s.latch.lw1 s.engine)
      (.write (wdataAddr s.cfg) s.latch.lw1) with seq := afterArg1 s.latch.ln } := by
  obtain ⟨hi, hcsr⟩ := h.wr1 hq
  have hn := engineNargs_of_csrInForce hcsr
  rw [engineWriteData_first (.inl (engineIdle_iff.1 hi).2)]
  rw [engineNargs_eq] at hn
  cases hb : s.engine.csr.getLsbD 20 <;> rw [hb] at hn <;> rw [← hn]
  · exact ⟨hcsr, .inl ⟨rfl, rfl⟩⟩
  · exact ⟨rfl, rfl, hcsr⟩

/-- R196, R202: the first result word leaves a second one, as SEQ goes to RD2, or empties the slot, as it goes to
`idle`. -/
theorem State.EngineSync.readResult1 (h : s.EngineSync) (hl : s.latch = calledLatches s) (hq : s.seq = .rd1)
    (r1 : CellReg) (x : BusAccess) :
    EnginePhase { Machine.accessed s (engineReadData s.cfg s.draws s.engine).2 x with
      r1 := r1, seq := afterResult1 s.latch.lr } := by
  obtain ⟨hcsr, hslot, hrdy⟩ := h.rd1 hq
  have hn := engineNres_of_csrInForce hcsr
  rw [engineReadData_first (countsMatch_of_csrInForce hl h.arities hcsr) hslot]
  rw [engineNres_eq] at hn
  cases hb : s.engine.csr.getLsbD 19 <;> rw [hb] at hn <;> rw [← hn]
  · rfl
  · exact ⟨hcsr, rfl, hrdy⟩

/-- R41, R186 to R197: a step of the selected CALC keeps block and engine in step. -/
theorem State.EngineSync.runCalc (h : s.EngineSync) (hi : s.Inv)
    (ht : Machine.runCalc s.fsel.func (selectedFields s) s = .next t) : EnginePhase t := by
  have latched : s.seq ≠ .idle → s.latch = calledLatches s := fun hq => (hi.running hq).2
  rcases runCalc_next ht with ⟨hq, ht⟩ | ⟨hq, ht⟩ | ⟨hq, rfl⟩ | ⟨hq, rfl⟩ | ⟨hq, y, rfl, rfl⟩ | ⟨hq, y, rfl, rfl⟩ |
    ⟨hq, y, rfl, rfl⟩
  · obtain ⟨-, -, -, -, rfl⟩ := acceptCalc_next ht
    have hidle := h.idle hq
    rw [engineAtAcceptance_of_idle hidle]
    exact ⟨hidle, by simp [doneMask], fun hx => absurd rfl hx, nofun⟩
  · rw [csrWord_selectedFields (latched (by simp [hq]))] at ht
    exact h.writeControl hq ht
  · rw [clockedEngine_on h.clocked]
    exact h.writeArg1 hq
  · obtain ⟨hslot, hrdy, hcsr⟩ := h.wr2 hq
    rw [clockedEngine_on h.clocked, engineWriteData_second hslot]
    exact ⟨hcsr, .inl ⟨rfl, hrdy⟩⟩
  · obtain ⟨hcsr, hslot⟩ := h.poll hq
    rw [clockedRead_on h.clocked, rdy_engineReadCsr]
    rcases hslot with ⟨hslot, hrdy⟩ | ⟨hslot, hrdy⟩ <;> rw [hrdy]
    · exact ⟨hcsr, .inl ⟨hslot, hrdy⟩⟩
    · exact ⟨hcsr, hslot, hrdy⟩
  · rw [clockedRead_on h.clocked]
    exact h.readResult1 (latched (by simp [hq])) hq _ _
  · obtain ⟨hcsr, hslot, -⟩ := h.rd2 hq
    rw [clockedRead_on h.clocked,
      engineReadData_second (countsMatch_of_csrInForce (latched (by simp [hq])) h.arities hcsr) hslot]
    rfl

/-! ### The other actions -/

/-- R41 item 3: the engine's move keeps block and engine in step. -/
theorem State.EngineSync.engineMove (h : s.EngineSync) (e1 e2 : Word) : (Machine.engineMove e1 e2 s).EngineSync := by
  rw [engineMove_on s e1 e2 h.clocked]
  by_cases hs : s.engine.slot = .computing
  · have hq := h.poll_of_computing hs
    rw [engineFinish_computing hs]
    exact h.of_phase rfl rfl rfl ((enginePhase_of_seq (q := .poll) (by exact hq)).2 ⟨(h.poll hq).1, .inr ⟨rfl, rfl⟩⟩)
  · rw [engineFinish_of_ne hs]
    exact h

/-- R32: a command leaves the engine, and SEQ at `idle`. -/
theorem State.EngineSync.execCommand (h : s.EngineSync) {c : Command} (ht : Machine.execCommand c s = .next t) :
    t.EngineSync := by
  obtain ⟨hcfg, hseq, -, hengine, hclock, -, -, hagenda, -⟩ := commandFrame c s t ht
  have hq := execCommand_next_idle ht
  refine h.of_phase hcfg hclock hagenda ((enginePhase_of_seq (hseq.trans hq)).2 ?_)
  show engineIdle t.engine = true
  rw [hengine]
  exact h.idle hq

/-- Settles O49: each action keeps block and engine in step; no clock-off and no reset is to come. -/
theorem everyStepKeepsTheEngineInStep : Obligations.EveryStepKeepsTheEngineInStep := by
  intro s t hi h hs
  rcases hi.step_next hs with ht | ⟨c, rest, -, ht⟩ | ⟨e1, e2, rest, -, rfl⟩ | ⟨on, rest, hm, rfl⟩ |
    ⟨rest, hm, rfl⟩ | rfl
  · obtain ⟨hcfg, -, -, -, hclock, hagenda, -⟩ := runCalc_frame ht
    exact h.takeMove.of_phase hcfg hclock hagenda (h.takeMove.runCalc hi.takeMove ht)
  · exact h.takeMove.execCommand ht
  · exact h.takeMove.engineMove e1 e2
  · cases on
    · exact absurd rfl (h.moves _ (hm ▸ List.mem_cons_self)).2
    · exact h.takeMove.of_phase rfl h.clocked.symm rfl h.takeMove.phase
  · exact absurd rfl (h.moves _ (hm ▸ List.mem_cons_self)).1
  · exact h.takeMove

/-! ### RDY -/

/-- R41: no step of the selected CALC sets RDY. -/
theorem State.EngineSync.runCalc_erdy (h : s.EngineSync) {x : Fields}
    (ht : Machine.runCalc s.fsel.func x s = .next t) (hr : s.engine.erdy = false) : t.engine.erdy = false := by
  rcases runCalc_next ht with ⟨hq, ht⟩ | ⟨hq, ht⟩ | ⟨hq, rfl⟩ | ⟨hq, rfl⟩ | ⟨hq, y, rfl, rfl⟩ | ⟨hq, y, rfl, rfl⟩ |
    ⟨hq, y, rfl, rfl⟩
  · obtain ⟨-, -, -, -, rfl⟩ := acceptCalc_next ht
    exact (congrArg Engine.erdy (engineAtAcceptance_of_idle (h.idle hq))).trans hr
  · rcases writeControl_next ht with ⟨-, rfl⟩ | ⟨-, -, rfl⟩ | ⟨r, -, -, u, rfl, ⟨g, -, rfl⟩ | ⟨-, rfl⟩⟩ <;>
      simp [clockedEngine_on h.clocked, clockedRead_on h.clocked, engineWriteCsr, hr]
  · have hs : s.engine.slot ≠ .computing := by simp [(engineIdle_iff.1 (h.wr1 hq).1).2]
    rw [clockedEngine_on h.clocked]
    exact engineWriteData_erdy hs hr
  · have hs : s.engine.slot ≠ .computing := by simp [(h.wr2 hq).1]
    rw [clockedEngine_on h.clocked]
    exact engineWriteData_erdy hs hr
  · rw [clockedRead_on h.clocked]
    exact hr
  · simp [(h.rd1 hq).2.2] at hr
  · simp [(h.rd2 hq).2.2] at hr

/-- Settles O35: of the actions that block and engine in step allow, the engine's move alone sets RDY, and it does so
from `computing` alone. -/
theorem onlyTheEngineSetsReady : Obligations.OnlyTheEngineSetsReady := by
  intro s t hi h hs h0 h1
  rcases hi.step_next hs with ht | ⟨c, rest, -, ht⟩ | ⟨e1, e2, rest, hm, rfl⟩ | ⟨on, rest, hm, rfl⟩ |
    ⟨rest, hm, rfl⟩ | rfl
  · rw [h.takeMove.runCalc_erdy ht h0] at h1
    cases h1
  · obtain ⟨-, -, -, hengine, -⟩ := commandFrame c _ t ht
    rw [hengine, takeMove_engine, h0] at h1
    cases h1
  · rw [engineMove_on _ e1 e2 h.takeMove.clocked] at h1 ⊢
    by_cases hc : s.engine.slot = .computing
    · refine ⟨hc, e1, e2, rest, hm, ?_⟩
      simp [engineFinish_computing hc]
    · simp [engineFinish_of_ne hc, h0] at h1
  · cases on
    · exact absurd rfl (h.moves _ (hm ▸ List.mem_cons_self)).2
    · simp [setClock_true, h0] at h1
  · exact absurd rfl (h.moves _ (hm ▸ List.mem_cons_self)).1
  · simp [h0] at h1

end Sys2Proof.Machine
end

section
/-! PROOFS. The bus primitives at each address. -/

namespace Sys2Proof.Machine

variable {s : State}

/-- R56: a write of RDATA breaks its access mode. -/
theorem memWrite_rdata (w : Word) (s : State) : memWrite (rdataAddr s.cfg) w s = .refused .accessMode := by
  simp [memWrite, rdata_ne_csr, rdata_ne_wdata]

/-- R56: a read of WDATA breaks its access mode. -/
theorem memRead_wdata (s : State) : memRead (wdataAddr s.cfg) s = .refused .accessMode := by
  simp [memRead, wdata_ne_csr]

/-- R57: a write elsewhere (log 27). -/
theorem memWrite_elsewhere {a : Word} (w : Word) (hc : a ≠ csrAddr s.cfg) (hw : a ≠ wdataAddr s.cfg)
    (hr : a ≠ rdataAddr s.cfg) : memWrite a w s = .fault (.noRegister a) := by
  simp [memWrite, hc, hw, hr]

/-- R57: a read elsewhere (log 27). -/
theorem memRead_elsewhere {a : Word} (hc : a ≠ csrAddr s.cfg) (hw : a ≠ wdataAddr s.cfg)
    (hr : a ≠ rdataAddr s.cfg) : memRead a s = .fault (.noRegister a) := by
  simp [memRead, hc, hw, hr]

/-- Settles O32: each primitive at each address, with the clock on. -/
theorem busPrimitives : Obligations.BusPrimitives := by
  intro s a w hclock
  have hwriteCsr := memWrite_csr w s
  have hwriteData := memWrite_wdata w s
  have hreadCsr := memRead_csr s
  have hreadData := memRead_rdata s
  rw [clockedEngine_on hclock] at hwriteCsr hwriteData
  rw [clockedRead_on hclock] at hreadCsr hreadData
  exact ⟨hwriteCsr, hwriteData, memWrite_rdata w s, hreadCsr, memRead_wdata s, hreadData,
    fun hc hw hr => ⟨memWrite_elsewhere w hc hw hr, memRead_elsewhere hc hw hr⟩⟩

end Sys2Proof.Machine
end

section
/-! PROOFS. Every step keeps the order of the bus accesses: first what the order is at each SEQ, then the accesses. -/

namespace Sys2Proof.Machine

variable {s t : State}

/-! ### The accesses of a control write -/

/-- R193: the fields done are one more after each field but the last. -/
theorem fieldIndex_after {x g : CsrField} (h : x.after = some g) : fieldIndex g = fieldIndex x + 1 := by
  revert h
  cases x <;> cases g <;> decide

/-- R193: nine fields stand before the last. -/
theorem fieldIndex_last {x : CsrField} (h : x.after = none) : fieldIndex x = 9 := by
  revert h
  cases x <;> decide

theorem controlProgress_single {l : List BusAccess} (hm : s.cfg.csrWriteMode = .single) :
    ControlProgress s l ↔ l = [] := by
  simp only [ControlProgress, hm]

theorem controlProgress_perField {l : List BusAccess} (hm : s.cfg.csrWriteMode = .perField) :
    ControlProgress s l ↔
      l.length = 2 * fieldIndex s.cfgField + s.cfgHeld.toList.length ∧ ∀ x ∈ l, accessAddr x = csrAddr s.cfg := by
  simp only [ControlProgress, hm]

theorem controlAccesses_single {l : List BusAccess} (hm : s.cfg.csrWriteMode = .single) :
    ControlAccesses s l ↔ l = [.write (csrAddr s.cfg) (latchedWord s)] := by
  simp only [ControlAccesses, hm]

theorem controlAccesses_perField {l : List BusAccess} (hm : s.cfg.csrWriteMode = .perField) :
    ControlAccesses s l ↔ l.length = 20 ∧ ∀ x ∈ l, accessAddr x = csrAddr s.cfg := by
  simp only [ControlAccesses, hm]

/-- R193: a CSR write starts with no access made. -/
theorem controlProgress_nil (hf : s.cfgField = .func) (hh : s.cfgHeld = none) : ControlProgress s [] := by
  cases hm : s.cfg.csrWriteMode with
  | single => exact (controlProgress_single hm).2 rfl
  | perField => exact (controlProgress_perField hm).2 ⟨by simp [hf, hh, fieldIndex], nofun⟩

/-- R195: one more poll that found RDY 0. -/
theorem PollsNotReady.cons {polls : List BusAccess} {r : Word} (h : PollsNotReady s polls) (hr : rdy r = false) :
    PollsNotReady s (.read (csrAddr s.cfg) r :: polls) :=
  List.forall_mem_cons.2 ⟨⟨r, rfl, hr⟩, h⟩

/-! ### The order at each SEQ -/

/-- The order is said of the configuration, SEQ, the latches, the place of a field-by-field write and the bus log. -/
theorem State.BusOrder.congr (h : s.BusOrder) (hcfg : t.cfg = s.cfg) (hseq : t.seq = s.seq)
    (hlatch : t.latch = s.latch) (hfield : t.cfgField = s.cfgField) (hheld : t.cfgHeld = s.cfgHeld)
    (hbus : t.bus = s.bus) : t.BusOrder := by
  cases s
  cases t
  dsimp only at hcfg hseq hlatch hfield hheld hbus
  subst hcfg hseq hlatch hfield hheld hbus
  exact h

theorem busOrder_idle (hq : s.seq = .idle) : s.BusOrder ↔ s.bus = [] ∨ WholeTransaction s s.bus := by
  simp only [State.BusOrder, hq]

theorem busOrder_cfg (hq : s.seq = .cfg) : s.BusOrder ↔ ControlProgress s s.bus := by
  simp only [State.BusOrder, hq]

/-- R193: in the mode `per_field` the accesses so far are as many as the fields done take, all of CSR. -/
theorem busOrder_of_cfg_perField (hq : s.seq = .cfg) (hm : s.cfg.csrWriteMode = .perField)
    (hlen : s.bus.length = 2 * fieldIndex s.cfgField + s.cfgHeld.toList.length)
    (haddr : ∀ x ∈ s.bus, accessAddr x = csrAddr s.cfg) : s.BusOrder :=
  (busOrder_cfg hq).2 ((controlProgress_perField hm).2 ⟨hlen, haddr⟩)

theorem busOrder_wr1 (hq : s.seq = .wr1) : s.BusOrder ↔ ControlAccesses s s.bus := by
  simp only [State.BusOrder, hq]

theorem busOrder_wr2 (hq : s.seq = .wr2) :
    s.BusOrder ↔ ∃ ctl, ControlAccesses s ctl ∧ s.bus = .write (wdataAddr s.cfg) s.latch.lw1 :: ctl := by
  simp only [State.BusOrder, hq]

theorem busOrder_poll (hq : s.seq = .poll) :
    s.BusOrder ↔ ∃ polls ctl,
      s.bus = polls ++ argumentAccesses s ++ ctl ∧ PollsNotReady s polls ∧ ControlAccesses s ctl := by
  simp only [State.BusOrder, hq]

theorem busOrder_rd1 (hq : s.seq = .rd1) : s.BusOrder ↔ ReadyAccesses s s.bus := by
  simp only [State.BusOrder, hq]

theorem busOrder_rd2 (hq : s.seq = .rd2) :
    s.BusOrder ↔ ∃ w1 ready, s.bus = .read (rdataAddr s.cfg) w1 :: ready ∧ ReadyAccesses s ready := by
  simp only [State.BusOrder, hq]

/-! ### The CALC step -/

/-- R193: the control write adds an access of CSR to those of the write in progress, the last one completes them. -/
theorem State.BusOrder.writeControl (h : s.BusOrder) (hq : s.seq = .cfg)
    (ht : Machine.writeControl (latchedWord s) s = .next t) : t.BusOrder := by
  have hp := (busOrder_cfg hq).1 h
  rcases writeControl_next ht with ⟨hm, rfl⟩ | ⟨hm, hh, rfl⟩ | ⟨r, hm, hh, u, rfl, ⟨g, hx, rfl⟩ | ⟨hx, rfl⟩⟩
  · rw [controlProgress_single hm] at hp
    exact (busOrder_wr1 rfl).2 ((controlAccesses_single hm).2 (congrArg _ hp))
  all_goals
    obtain ⟨hlen, haddr⟩ := (controlProgress_perField hm).1 hp
    rw [hh] at hlen
  · refine busOrder_of_cfg_perField hq hm ?_ (List.forall_mem_cons.2 ⟨rfl, haddr⟩)
    simp [hlen]
  · refine busOrder_of_cfg_perField hq hm ?_ (List.forall_mem_cons.2 ⟨rfl, haddr⟩)
    simp [hlen, fieldIndex_after hx, Nat.mul_add]
  · refine (busOrder_wr1 rfl).2 ((controlAccesses_perField hm).2 ⟨?_, List.forall_mem_cons.2 ⟨rfl, haddr⟩⟩)
    simp [hlen, fieldIndex_last hx]

/-- R194: after the first argument word the second one is still to come, or the arguments are complete. -/
theorem State.BusOrder.writeArg1 (h : s.BusOrder) (hq : s.seq = .wr1) (e : Engine) :
    State.BusOrder { Machine.accessed s e (.write (wdataAddr s.cfg) s.latch.lw1) with
      seq := afterArg1 s.latch.ln } := by
  have hctl := (busOrder_wr1 hq).1 h
  cases hn : s.latch.ln with
  | one =>
    refine (busOrder_poll rfl).2 ⟨[], s.bus, ?_, nofun, hctl⟩
    simp [argumentAccesses, hn]
  | two => exact (busOrder_wr2 rfl).2 ⟨s.bus, hctl, rfl⟩

/-- R194: the second argument word completes the arguments. -/
theorem State.BusOrder.writeArg2 (h : s.BusOrder) (hq : s.seq = .wr2) (hn : s.latch.ln = .two) (e : Engine) :
    State.BusOrder { Machine.accessed s e (.write (wdataAddr s.cfg) s.latch.lw2) with seq := .poll } := by
  obtain ⟨ctl, hctl, hbus⟩ := (busOrder_wr2 hq).1 h
  refine (busOrder_poll rfl).2 ⟨[], ctl, ?_, nofun, hctl⟩
  simp [argumentAccesses, hn, hbus]

/-- R195: a poll that finds RDY 0 is one more such poll, one that finds RDY 1 is the last. -/
theorem State.BusOrder.pollReady (h : s.BusOrder) (hq : s.seq = .poll) (e : Engine) (r : Word) :
    State.BusOrder { Machine.accessed s e (.read (csrAddr s.cfg) r) with seq := if rdy r then .rd1 else .poll } := by
  obtain ⟨polls, ctl, hbus, hpolls, hctl⟩ := (busOrder_poll hq).1 h
  have hlog : BusAccess.read (csrAddr s.cfg) r :: s.bus =
      .read (csrAddr s.cfg) r :: (polls ++ argumentAccesses s ++ ctl) := congrArg _ hbus
  cases hr : rdy r with
  | false => exact (busOrder_poll rfl).2 ⟨_ :: polls, ctl, hlog, hpolls.cons hr, hctl⟩
  | true => exact (busOrder_rd1 rfl).2 ⟨r, polls, ctl, hlog, hr, hpolls, hctl⟩

/-- R196: the first result word completes the transaction, or the second one is still to come. -/
theorem State.BusOrder.readResult1 (h : s.BusOrder) (hq : s.seq = .rd1) (e : Engine) (w : Word) (r1 : CellReg) :
    State.BusOrder { Machine.accessed s e (.read (rdataAddr s.cfg) w) with
      r1 := r1, seq := afterResult1 s.latch.lr } := by
  have hready := (busOrder_rd1 hq).1 h
  cases hn : s.latch.lr with
  | one =>
    refine (busOrder_idle rfl).2 (.inr ⟨s.bus, hready, ?_⟩)
    simp [hn]
  | two => exact (busOrder_rd2 rfl).2 ⟨w, s.bus, rfl, hready⟩

/-- R196: the second result word completes the transaction. -/
theorem State.BusOrder.readResult2 (h : s.BusOrder) (hq : s.seq = .rd2) (hn : s.latch.lr = .two) (e : Engine)
    (w : Word) (r2 : CellReg) :
    State.BusOrder { Machine.accessed s e (.read (rdataAddr s.cfg) w) with r2 := r2, seq := .idle } := by
  obtain ⟨w1, ready, hbus, hready⟩ := (busOrder_rd2 hq).1 h
  refine (busOrder_idle rfl).2 (.inr ⟨ready, hready, ?_⟩)
  simp [hn, hbus]

/-- R62, R64, R186 to R197: a step of the selected CALC keeps the order. The invariant gives the control word that CFG
writes and the two words that WR2 and RD2 call for. -/
theorem State.BusOrder.runCalc (h : s.BusOrder) (hi : s.Inv)
    (ht : Machine.runCalc s.fsel.func (selectedFields s) s = .next t) : t.BusOrder := by
  rcases runCalc_next ht with ⟨-, ht⟩ | ⟨hq, ht⟩ | ⟨hq, rfl⟩ | ⟨hq, rfl⟩ | ⟨hq, y, -, rfl⟩ | ⟨hq, y, -, rfl⟩ |
    ⟨hq, y, -, rfl⟩
  · obtain ⟨-, -, -, -, rfl⟩ := acceptCalc_next ht
    exact (busOrder_cfg rfl).2 (controlProgress_nil rfl rfl)
  · rw [csrWord_selectedFields (hi.running (by simp [hq])).2] at ht
    exact h.writeControl hq ht
  · exact h.writeArg1 hq _
  · exact h.writeArg2 hq (hi.wr2_two hq) _
  · exact h.pollReady hq _ _
  · exact h.readResult1 hq _ _ _
  · exact h.readResult2 hq (hi.rd2_two hq) _ _ _

/-- Settles O50: a CALC step extends the order, a hardware reset empties the log, and every other action leaves what
the order speaks of. -/
theorem everyStepKeepsTheBusOrder : Obligations.EveryStepKeepsTheBusOrder := by
  intro s t hi h hs
  have h' : (takeMove s).BusOrder := h
  rcases hi.step_next hs with ht | ⟨c, rest, -, ht⟩ | ⟨e1, e2, rest, -, rfl⟩ | ⟨on, rest, -, rfl⟩ | ⟨rest, -, rfl⟩ | rfl
  · exact h'.runCalc hi.takeMove ht
  · obtain ⟨hcfg, hseq, hlatch, -, -, hfield, hheld, -, hbus, -⟩ := commandFrame c _ t ht
    exact h'.congr hcfg hseq hlatch hfield hheld hbus
  · exact h'.congr (by simp) (by simp) (by simp) (by simp) (by simp) (by simp)
  · exact h'.congr (by simp) (by simp) (by simp) (by simp) (by simp) (by simp)
  · exact (busOrder_idle rfl).2 (.inl rfl)
  · exact h'

end Sys2Proof.Machine
end

section
/-! SUPPORT. What the decoder accepts: a word is put together again from its fields, a word decodes exactly when it is the
encoding of an instruction, and what the masks of the opcode table and of the zero bits leave of a control word. -/

namespace Sys2Proof

/-- R80, R87: the control word of the variable fields of `w` is `w` again, when the fixed bits of `w` are 0 and its count
bits and opcode are those given. -/
theorem csrWord_fieldsOf {w : Word} {na nr : Count} {c : BitVec 4} (hhigh : w.extractLsb' 23 9 = 0)
    (hunnamed : w.extractLsb' 11 5 = 0) (hchannels : w.extractLsb' 16 3 = 0) (hnargs : w.extractLsb' 20 1 = na.bit)
    (hnres : w.extractLsb' 19 1 = nr.bit) (hcode : w.extractLsb' 0 4 = c) :
    csrWord (fieldsOf w).argSize (fieldsOf w).resSize na nr (fieldsOf w).scale (fieldsOf w).precision c = w := by
  have hzeros : w.extractLsb' 11 8 = 0 := by
    rw [← BitVec.extractLsb'_append_extractLsb'_eq_extractLsb' (start₁ := 11) (len₁ := 5) (len₂ := 3) rfl, hunnamed,
      hchannels]
    rfl
  calc csrWord (fieldsOf w).argSize (fieldsOf w).resSize na nr (fieldsOf w).scale (fieldsOf w).precision c
      = w.extractLsb' 23 9 ++ w.extractLsb' 22 1 ++ w.extractLsb' 21 1 ++ w.extractLsb' 20 1 ++ w.extractLsb' 19 1 ++
          w.extractLsb' 11 8 ++ w.extractLsb' 8 3 ++ w.extractLsb' 4 4 ++ w.extractLsb' 0 4 := by
        rw [csrWord, fieldsOf, bit_ofBit_wordSize, bit_ofBit_wordSize, hhigh, hnargs, hnres, hzeros, hcode]
    _ = w.extractLsb' 0 32 := by
        iterate 8 rw [BitVec.extractLsb'_append_extractLsb'_eq_extractLsb' (by rfl)]
    _ = w := BitVec.extractLsb'_eq_self

/-- R82: a count bit is that of the count it is read as. -/
theorem eq_bit_of_ofBit {b : BitVec 1} {n : Count} (h : Count.ofBit b = n) : b = n.bit := by
  rw [← h, bit_ofBit_count]

theorem decode_encode (d : DescTable) (i : Instr) : decode d (encode d i) = .ok i := by
  rw [encode, decode_csrWord, make_func_fields]

theorem encode_of_decode {d : DescTable} {w : Word} {i : Instr} (h : decode d w = .ok i) : encode d i = w := by
  unfold decode at h
  split at h
  · cases h
  rename_i hreserved
  split at h
  · cases h
  rename_i hchannels
  split at h
  · cases h
  rename_i f hf
  split at h
  · rename_i hcounts
    injection h with h
    obtain ⟨hhigh, hunnamed⟩ := not_or.1 hreserved
    rw [← h, encode, make_func, make_fields]
    exact csrWord_fieldsOf (not_not.1 hhigh) (not_not.1 hunnamed) (not_not.1 hchannels) (eq_bit_of_ofBit hcounts.1)
      (eq_bit_of_ofBit hcounts.2) (code_of_ofCode? hf).symm
  · cases h

/-- R87: the words that decode are exactly the encodings, each of its own instruction. -/
theorem decode_eq_ok_iff {d : DescTable} {w : Word} {i : Instr} : decode d w = .ok i ↔ encode d i = w :=
  ⟨encode_of_decode, fun h => h ▸ decode_encode d i⟩

theorem code_lt (f : Func) : f.code.toNat < 10 := by
  cases f <;> decide

/-- R92: the codes 10 to 15 name no function. -/
theorem ofCode?_eq_none {c : BitVec 4} (h : 10 ≤ c.toNat) : Func.ofCode? c = none := by
  revert c
  decide

section Masks

variable (a r : WordSize) (na nr : Count) (sc : BitVec 3) (p c : BitVec 4)

/-- R83, R88, R89: bits 31:23, 18:16 and 15:11 of a control word are 0. -/
theorem csrWord_and_zeros : csrWord a r na nr sc p c &&& 0xFF87F800 = 0 := by
  have hmask : (0xFF87F800 : Word) = BitVec.allOnes 9 ++ 0#1 ++ 0#1 ++ 0#1 ++
      0#1 ++ BitVec.allOnes 8 ++ 0#3 ++ 0#4 ++ 0#4 := by decide
  rw [hmask, csrWord]
  iterate 8 rw [BitVec.and_append]
  simp only [BitVec.and_allOnes, BitVec.and_zero]
  rfl

/-- R87: the mask of the opcode table takes the variable fields out of a control word. -/
theorem csrWord_and_tableMask :
    csrWord a r na nr sc p c &&& tableMask = csrWord .bits32 .bits32 na nr 0 0 c := by
  have hmask : tableMask = BitVec.allOnes 9 ++ 0#1 ++ 0#1 ++ BitVec.allOnes 1 ++
      BitVec.allOnes 1 ++ BitVec.allOnes 8 ++ 0#3 ++ 0#4 ++ BitVec.allOnes 4 := by decide
  rw [hmask, csrWord]
  iterate 8 rw [BitVec.and_append]
  simp only [BitVec.and_allOnes, BitVec.and_zero]
  rfl

end Masks

/-- R87: the match of a function is its control word under the default descriptors with the variable fields at 0. -/
theorem tableMatch_eq_csrWord (f : Func) :
    tableMatch f =
      csrWord .bits32 .bits32 (DescTable.default.of f).nargs (DescTable.default.of f).nres 0 0 f.code := by
  cases f <;> rfl

/-- A field that lies whole inside a mask is read off the masked word. -/
theorem extractLsb'_of_and_eq {w m v : Word} {start len : Nat} (h : w &&& m = v)
    (hm : m.extractLsb' start len = BitVec.allOnes len) : w.extractLsb' start len = v.extractLsb' start len := by
  rw [← h, BitVec.extractLsb'_and, hm, BitVec.and_allOnes]

theorem wordSize_bit_ofFmt (f : Fmt) : (WordSize.ofFmt f).bit.getLsbD 0 = decide (f = .q1_15) := by
  cases f <;> rfl

theorem count_bit_getLsbD (n : Count) : n.bit.getLsbD 0 = decide (n = .two) := by
  cases n <;> rfl

/-- A one-bit field is the bit at its place. -/
theorem getLsbD_of_extractLsb' {w : Word} {j : Nat} {b : BitVec 1} (h : w.extractLsb' j 1 = b) :
    w.getLsbD j = b.getLsbD 0 := by
  rw [← h, BitVec.getLsbD_extractLsb']
  simp

end Sys2Proof
end

section
/-! SUPPORT. The step that accepts a CALC, and the state in which an instruction is placed. -/

namespace Sys2Proof.Machine

variable {s : State}

/-- R43, R87: with CALC on the command port at `idle` the step runs the instruction fetched. -/
theorem step_calc {i : Instr} {rest : List Move} (hw : s.cfg.wf = true) (hq : s.seq = .idle)
    (ha : s.agenda = .command .calc :: rest) (hf : fetch s = .ok i) : step s = exec i { s with agenda := rest } := by
  have hn : nextAction s = .run i := by simp [nextAction, hw, ha, hq, runFetched, hf]
  rw [step, hn, perform, takeMove, ha, List.tail_cons]

/-- R181, R182: SETARG1 on an operation at `idle`. -/
theorem setArg1Op_idle (v : Value) (hq : s.seq = .idle) (hw : s.fsel.written = true) :
    setArg1Op v s = .next { s with a1 := ⟨encodeValue s.cfg (selected s).kind1 v, true⟩ } := by
  simp [setArg1Op, whenIdle, whenCreated, hq, hw]

/-- R183: SETARG2 on an operation with two arguments at `idle`. -/
theorem setArg2Op_idle (v : Value) {k1 k2 : Kind} {p : Option Value} (hq : s.seq = .idle) (hw : s.fsel.written = true)
    (hargs : (selected s).args = .two k1 k2 p) :
    setArg2Op v s = .next { s with a2 := ⟨encodeValue s.cfg k2 v, true⟩ } := by
  simp [setArg2Op, whenIdle, whenCreated, hq, hw, hargs]

theorem fetchCfg_wf (c : Cfg) (i : Instr) : (fetchCfg c i).wf = true := by
  have hwf : (fetchCfg c i).wf = (if c.wf then c else Cfg.reset).wf := rfl
  rw [hwf]
  split
  · assumption
  · exact cfgReset_wf

theorem ofFmt_fetchCfg (c : Cfg) (i : Instr) : WordSize.ofFmt (fetchCfg c i).fmt = i.fields.argSize := by
  unfold fetchCfg
  cases i.fields.argSize <;> rfl

/-- R81: where a well-formed instruction is placed, the operand registers and the straps call for its own operands. -/
theorem selectedFields_placeInstr (s : State) {i : Instr} (hi : i.wellFormed = true) :
    selectedFields (placeInstr s i) = i.fields := by
  have hsize : i.fields.argSize = i.fields.resSize := (wellFormed_iff i).1 hi
  calc selectedFields (placeInstr s i)
      = ⟨i.fields.argSize, i.fields.argSize, i.fields.scale, i.fields.precision⟩ := by
        rw [← ofFmt_fetchCfg s.cfg i]
        rfl
    _ = ⟨i.fields.argSize, i.fields.resSize, i.fields.scale, i.fields.precision⟩ := by rw [← hsize]
    _ = i.fields := rfl

/-- R87: the instruction fetched where a well-formed instruction is placed is that instruction. -/
theorem fetch_placeInstr (s : State) {i : Instr} (hi : i.wellFormed = true) : fetch (placeInstr s i) = .ok i := by
  calc fetch (placeInstr s i) = .ok (.make i.func (selectedFields (placeInstr s i))) := decode_selectedWord _
    _ = .ok i := by rw [selectedFields_placeInstr s hi, make_func_fields]

theorem withFetchWord_of_decodeTableWord {nbits w : Nat} {i : Instr} (h : decodeTableWord nbits w = some i) :
    s.withFetchWord nbits w = placeInstr s i := by
  rw [State.withFetchWord, h]

end Sys2Proof.Machine
end

section
/-! PROOFS. The statements of 30_encoding.md. -/

namespace Sys2Proof.Machine

/-- Settles O2: the decoder reads each field of the assembled word back. -/
theorem decodeOfEncodeIsTheInstruction : Obligations.DecodeOfEncodeIsTheInstruction :=
  decode_encode

/-- Settles O3: a word that passes the decoder's checks is put together again from its fields. -/
theorem encodeOfDecodeIsTheWord : Obligations.EncodeOfDecodeIsTheWord :=
  fun _ _ _ => encode_of_decode

/-- Settles O4. A word that decodes is an encoding, of which the mask leaves the match; and the mask covers every field of
a word but the variable ones, so a word with the match of `f` is the encoding of `f` with its variable fields. -/
theorem maskAndMatchSelectTheFunction : Obligations.MaskAndMatchSelectTheFunction := by
  intro w f
  constructor
  · rintro ⟨i, hi, rfl⟩
    rw [← encode_of_decode hi, encode, csrWord_and_tableMask, tableMatch_eq_csrWord]
  · intro h
    rw [tableMatch_eq_csrWord] at h
    refine ⟨.make f (fieldsOf w), decode_eq_ok_iff.2 ?_, make_func f _⟩
    rw [encode, make_func, make_fields]
    exact csrWord_fieldsOf
      ((extractLsb'_of_and_eq h rfl).trans (csrWord_high ..))
      ((extractLsb'_of_and_eq h rfl).trans (csrWord_unnamed ..))
      ((extractLsb'_of_and_eq h rfl).trans (csrWord_channels ..))
      ((extractLsb'_of_and_eq h rfl).trans (csrWord_nargs ..))
      ((extractLsb'_of_and_eq h rfl).trans (csrWord_nres ..))
      ((extractLsb'_of_and_eq h rfl).trans (csrWord_func ..))

/-- Settles O5: a word that decodes is an encoding. -/
theorem reservedWordsDoNotDecode : Obligations.ReservedWordsDoNotDecode := by
  intro d w i h
  rw [← encode_of_decode h, encode]
  refine ⟨csrWord_and_zeros .., ?_⟩
  rw [csrWord_func]
  exact code_lt i.func

/-- Settles O6, field by field of the two control words. -/
theorem controlWordCarriesItsFields : Obligations.ControlWordCarriesItsFields :=
  ⟨fun _ => ⟨csrWord_precision .., csrWord_scale .., csrWord_func .., csrWord_precision .., csrWord_scale ..,
    csrWord_func ..⟩, rfl, rfl, rfl, rfl, rfl, rfl, rfl, rfl, rfl, rfl⟩

/-- Settles O7: the size and count bits are the one-bit fields of the word in the latches. -/
theorem controlWordSizesCountsAndZeros : Obligations.ControlWordSizesCountsAndZeros := fun _ =>
  ⟨(getLsbD_of_extractLsb' (csrWord_argSize ..)).trans (wordSize_bit_ofFmt _),
    (getLsbD_of_extractLsb' (csrWord_resSize ..)).trans (wordSize_bit_ofFmt _),
    (getLsbD_of_extractLsb' (csrWord_nargs ..)).trans (count_bit_getLsbD _),
    (getLsbD_of_extractLsb' (csrWord_nres ..)).trans (count_bit_getLsbD _),
    csrWord_and_zeros ..⟩

/-- Settles O9: the selected word is the word of FSEL's function with its own counts, and the invariant makes the word in
the latches the selected one. -/
theorem fetchedInstructionIsTheSelectedOne : Obligations.FetchedInstructionIsTheSelectedOne := by
  refine ⟨decode_selectedWord, fun s h hr => ?_, fun f z sc p => ?_⟩
  · obtain ⟨-, hlatch⟩ := h.running hr
    rw [latchedWord_eq_selectedWord hlatch, decode_selectedWord, hlatch]
    rfl
  · rw [wellFormed_iff, make_fields]

/-- Settles O10: where the instruction is placed, CALC is on the command port and the instruction is what is fetched. -/
theorem placedWordIsRunByTheNextStep : Obligations.PlacedWordIsRunByTheNextStep := by
  intro s nbits w i hd hi
  rw [withFetchWord_of_decodeTableWord hd]
  exact step_calc (fetchCfg_wf s.cfg i) rfl rfl (fetch_placeInstr s hi)

/-- Settles O45: each expansion is one setter, which encodes for the UNIT kind as the angle and the modulus do. -/
theorem pseudoCommandsSetAnglesAndModulus : Obligations.PseudoCommandsSetAnglesAndModulus := by
  intro s p r m deg hq hw hargs
  have hkind : (selected s).kind1 = .unit := by rw [Desc.kind1, selected, hargs]
  have setter : ∀ v, setArg1Op v s = .next { s with a1 := ⟨encodeValue s.cfg .unit v, true⟩ } := fun v => by
    rw [setArg1Op_idle v hq hw, hkind]
  exact ⟨⟨_, rfl, setter _⟩, ⟨_, rfl, setter _⟩, ⟨_, rfl, setArg2Op_idle m hq hw hargs⟩⟩

/-- Settles O1, word by word. -/
theorem tableWordsDecode : Obligations.TableWordsDecode := by
  unfold Obligations.TableWordsDecode
  decide

/-- Settles O37: the codes of 10 and above name no function. -/
theorem createRefusesUnknownFunctions : Obligations.CreateRefusesUnknownFunctions := by
  intro s code hq hcode
  rw [execCommand, createOp, whenIdle, if_pos hq, ofCode?_eq_none hcode]

end Sys2Proof.Machine
end

section
/-! PROOFS. The statements of 40_fixed_point.md: rounding, the scale lookup, the encoder and the bus words. -/

namespace Sys2Proof.Machine

/-! ### Rounding (R116) -/

/-- R116: of a value that is not negative, `rnd` is the integer of the half-open unit interval around it. -/
theorem rnd_bounds_of_nonneg {q : Value} (h : 0 ≤ q) : (rnd q : Value) - 1 / 2 ≤ q ∧ q < rnd q + 1 / 2 := by
  have hr : rnd q = (q + 1 / 2).floor := if_neg (not_lt.2 h)
  have hlo : (((q + 1 / 2).floor : Int) : Value) ≤ q + 1 / 2 := Rat.le_floor_iff.1 le_rfl
  have hhi : q + 1 / 2 < (((q + 1 / 2).floor + 1 : Int) : Value) := Rat.floor_lt_iff.1 (lt_add_one _)
  push_cast at hhi
  rw [hr]
  constructor <;> linarith

/-- R116: rounding is odd. -/
theorem rnd_neg (q : Value) : rnd (-q) = -rnd q := by
  rcases lt_trichotomy q 0 with h | rfl | h
  · simp [rnd, h, h.le]
  · have h0 : rnd 0 = 0 := rnd_intCast 0
    rw [neg_zero, h0, neg_zero]
  · simp [rnd, h, h.le]

/-- Settles O51: on the values that are not negative the interval around `rnd q` is closed on the side of the larger
magnitude only, and rounding is odd. -/
theorem roundingIsToNearestAwayFromZero : Obligations.RoundingIsToNearestAwayFromZero := by
  have nonneg : ∀ q : Value, 0 ≤ q → |(rnd q : Value) - q| ≤ 1 / 2 ∧
      (|(rnd q : Value) - q| = 1 / 2 → |q| < |(rnd q : Value)|) := by
    intro q hq
    obtain ⟨hlo, hhi⟩ := rnd_bounds_of_nonneg hq
    refine ⟨abs_le.2 ⟨by linarith, by linarith⟩, fun htie => ?_⟩
    rcases eq_or_eq_neg_of_abs_eq htie with h | h
    · rw [abs_of_nonneg hq]
      exact (show q < rnd q by linarith).trans_le (le_abs_self _)
    · linarith
  intro q
  rcases le_total 0 q with hq | hq
  · exact nonneg q hq
  · have h := nonneg (-q) (neg_nonneg.2 hq)
    rwa [rnd_neg, Int.cast_neg, ← neg_sub_neg, neg_neg, neg_neg, abs_sub_comm, abs_neg, abs_neg] at h

/-! ### The scale lookup (R113, R114) -/

/-- R113: the lower bound is inside, the upper bound is outside. -/
theorem rangeContains_iff {r : Range} {v : Value} : rangeContains r v = true ↔ r.lo ≤ v ∧ v < r.hi := by
  rw [rangeContains, Bool.and_eq_true, decide_eq_true_iff, decide_eq_true_iff]

theorem rangeAt_eq_getElem {t : List Range} {i : Nat} (h : i < t.length) : rangeAt t i = t[i] :=
  List.getD_eq_getElem _ _ h

/-- R114: the lookup ends at the first range that contains the value, or at the last index where no range does. -/
theorem findSmallestScaleIndex_cases (t : List Range) (v : Value) :
    (rangeContains (rangeAt t (findSmallestScaleIndex t v)) v = true ∧ findSmallestScaleIndex t v < t.length ∧
        ∀ j, j < findSmallestScaleIndex t v → rangeContains (rangeAt t j) v = false) ∨
      (findSmallestScaleIndex t v = t.length - 1 ∧ ∀ j, j < t.length → rangeContains (rangeAt t j) v = false) := by
  cases hf : t.findIdx? fun r => rangeContains r v with
  | none =>
    refine .inr ⟨by rw [findSmallestScaleIndex, hf, Option.getD_none], fun j hj => ?_⟩
    rw [rangeAt_eq_getElem hj]
    exact List.findIdx?_eq_none_iff.1 hf _ (List.getElem_mem hj)
  | some i =>
    obtain ⟨hi, hc, hbefore⟩ := List.findIdx?_eq_some_iff_getElem.1 hf
    have hidx : findSmallestScaleIndex t v = i := by rw [findSmallestScaleIndex, hf, Option.getD_some]
    rw [hidx]
    refine .inl ⟨by rw [rangeAt_eq_getElem hi]; exact hc, hi, fun j hj => ?_⟩
    rw [rangeAt_eq_getElem (hj.trans hi)]
    exact Bool.eq_false_iff.2 (hbefore j hj)

/-- Settles O52, from the two ways the lookup ends. -/
theorem lookupIsFirstContainingElseLast : Obligations.LookupIsFirstContainingElseLast := by
  intro t v ht
  have hlt := findSmallestScaleIndex_lt ht v
  refine ⟨hlt, ?_⟩
  rcases findSmallestScaleIndex_cases t v with ⟨hc, -, hbefore⟩ | ⟨hlast, hnone⟩
  · exact ⟨hbefore, .inl hc⟩
  · exact ⟨fun j hj => hnone j (hj.trans hlt), .inr ⟨hlast, hnone⟩⟩

/-- R114: the lookup does not go past a range that contains the value. -/
theorem findSmallestScaleIndex_le_of_contains {t : List Range} {v : Value} {j : Nat} (hj : j < t.length)
    (h : rangeContains (rangeAt t j) v = true) : findSmallestScaleIndex t v ≤ j := by
  rcases findSmallestScaleIndex_cases t v with ⟨-, -, hbefore⟩ | ⟨-, hnone⟩
  · by_contra hlt
    simp [hbefore j (not_le.1 hlt)] at h
  · simp [hnone j hj] at h

/-- Where each range that contains `v2` comes no earlier than one that contains `v1`, the lookup of `v1` ends no later
than that of `v2`. -/
theorem findSmallestScaleIndex_mono {t : List Range} (ht : t ≠ []) {v1 v2 : Value}
    (h : ∀ i, i < t.length → rangeContains (rangeAt t i) v2 = true →
      ∃ j, j ≤ i ∧ rangeContains (rangeAt t j) v1 = true) :
    findSmallestScaleIndex t v1 ≤ findSmallestScaleIndex t v2 := by
  rcases findSmallestScaleIndex_cases t v2 with ⟨hc, hlt, -⟩ | ⟨hlast, -⟩
  · obtain ⟨j, hji, hj⟩ := h _ hlt hc
    exact (findSmallestScaleIndex_le_of_contains (hji.trans_lt hlt) hj).trans hji
  · have := findSmallestScaleIndex_lt ht v1
    omega

/-- In a table of ranges symmetric about 0, a value of larger magnitude is not looked up earlier. -/
theorem findSmallestScaleIndex_mono_of_symmetric {t : List Range} (ht : t ≠ []) (hsym : ∀ r ∈ t, r.lo = -r.hi)
    {v1 v2 : Value} (hv : |v1| < |v2|) : findSmallestScaleIndex t v1 ≤ findSmallestScaleIndex t v2 := by
  refine findSmallestScaleIndex_mono ht fun i hi hc => ⟨i, le_rfl, ?_⟩
  have hs := hsym _ (List.getElem_mem hi)
  rw [rangeAt_eq_getElem hi, rangeContains_iff, hs] at hc ⊢
  obtain ⟨hlo, hhi⟩ := hc
  obtain ⟨h1, h2⟩ := abs_lt.1 (hv.trans_le (abs_le.2 ⟨hlo, hhi.le⟩))
  exact ⟨h1.le, h2⟩

/-- In a table without gaps, from its first lower bound on, a larger value is not looked up earlier. -/
theorem findSmallestScaleIndex_mono_of_gapless {t : List Range} (ht : t ≠ [])
    (hgap : t.IsChain fun a b => b.lo ≤ a.hi) {v1 v2 : Value} (hfirst : (rangeAt t 0).lo ≤ v1) (hv : v1 ≤ v2) :
    findSmallestScaleIndex t v1 ≤ findSmallestScaleIndex t v2 := by
  refine findSmallestScaleIndex_mono ht fun i hi hc => ?_
  obtain ⟨-, hhi⟩ := rangeContains_iff.1 hc
  by_contra hnone
  push Not at hnone
  have above : ∀ j, j ≤ i → (rangeAt t j).lo ≤ v1 := by
    intro j
    induction j with
    | zero => exact fun _ => hfirst
    | succ j ih =>
      intro hj
      have hout := hnone j (by omega)
      rw [Ne, rangeContains_iff, not_and, not_lt] at hout
      have hj' : j + 1 < t.length := by omega
      have hstep := List.isChain_iff_getElem.1 hgap j hj'
      rw [← rangeAt_eq_getElem, ← rangeAt_eq_getElem] at hstep
      exact hstep.trans (hout (ih (by omega)))
  exact hnone i le_rfl (rangeContains_iff.2 ⟨above i le_rfl, hv.trans_lt hhi⟩)

/-- The exponent of R117 step 1: that of the range the lookup returns. -/
def lookupExp (t : List Range) (v : Value) : Int := (rangeAt t (findSmallestScaleIndex t v)).exp

theorem lookupExp_of_index {t : List Range} {v : Value} {i : Nat} (h : findSmallestScaleIndex t v = i) :
    lookupExp t v = (rangeAt t i).exp :=
  congrArg (fun j => (rangeAt t j).exp) h

/-- R114: the exponent a value that no range contains is given. -/
def lastExp (t : List Range) : Int := (rangeAt t (t.length - 1)).exp

/-- Where no range of the table reaches up to the value, the last exponent is taken. -/
theorem lookupExp_of_ge {t : List Range} {v : Value} (h : ∀ r ∈ t, r.hi ≤ v) :
    lookupExp t v = lastExp t := by
  rcases findSmallestScaleIndex_cases t v with ⟨hc, hlt, -⟩ | ⟨hlast, -⟩
  · rw [rangeAt_eq_getElem hlt, rangeContains_iff] at hc
    exact absurd hc.2 (not_lt.2 (h _ (List.getElem_mem hlt)))
  · exact lookupExp_of_index hlast

/-- A table of one range gives every value the exponent of that range. -/
theorem lookupExp_singleton (r : Range) (v : Value) : lookupExp [r] v = r.exp :=
  lookupExp_of_index (Nat.lt_one_iff.1 (findSmallestScaleIndex_lt (List.cons_ne_nil _ _) v))

/-- R114: a first range that contains the value is taken. -/
theorem lookupExp_cons_of_contains {r : Range} {t : List Range} {v : Value} (h : rangeContains r v = true) :
    lookupExp (r :: t) v = r.exp := by
  have h0 : findSmallestScaleIndex (r :: t) v = 0 := by
    rw [findSmallestScaleIndex, List.findIdx?_cons, if_pos h, Option.getD_some]
  exact lookupExp_of_index h0

/-- R114: past a first range that does not contain the value the scan goes on in the rest of the table. -/
theorem lookupExp_cons_of_not_contains {r : Range} {t : List Range} {v : Value} (ht : t ≠ [])
    (h : ¬ rangeContains r v = true) : lookupExp (r :: t) v = lookupExp t v := by
  have hpos := List.length_pos_iff.2 ht
  have hnext : findSmallestScaleIndex (r :: t) v = findSmallestScaleIndex t v + 1 := by
    rw [findSmallestScaleIndex, findSmallestScaleIndex, List.findIdx?_cons, if_neg h]
    cases t.findIdx? fun r => rangeContains r v with
    | none => simp only [Option.map_none, Option.getD_none, List.length_cons]; omega
    | some i => rfl
  exact lookupExp_of_index hnext

/-- R112 item 2: the exponents ascend with the index. -/
theorem rangeAt_exp_mono {t : List Range} (h : (t.map Range.exp).Pairwise (· < ·)) {i j : Nat} (hij : i ≤ j)
    (hj : j < t.length) : (rangeAt t i).exp ≤ (rangeAt t j).exp := by
  rcases hij.lt_or_eq with hlt | rfl
  · rw [rangeAt_eq_getElem hj, rangeAt_eq_getElem (hlt.trans hj)]
    exact (List.pairwise_iff_getElem.1 (List.pairwise_map.1 h) i j _ hj hlt).le
  · exact le_rfl

/-! ### The encoder (R117, R118) -/

theorem encodeValue_scale (c : Cfg) (k : Kind) (v : Value) :
    (encodeValue c k v).scale = BitVec.ofInt 3 (lookupExp (c.kinds.of k).table.ranges v) := rfl

/-- R117 steps 2 to 4. -/
theorem encodeValue_raw (c : Cfg) (k : Kind) (v : Value) :
    (encodeValue c k v).raw =
      satW c.fmt (rnd (clamp (v * pow2 (-lookupExp (c.kinds.of k).table.ranges v)) (c.kinds.of k).allowedLo
        (c.kinds.of k).allowedHi * pow2 c.fmt.fracBits)) := rfl

/-- A value that steps 3 and 4 leave inside their bounds is only rounded. -/
theorem encodeValue_raw_of_inside {c : Cfg} {k : Kind} {v : Value} {e : Int}
    (he : lookupExp (c.kinds.of k).table.ranges v = e) (hlo : (c.kinds.of k).allowedLo ≤ v * pow2 (-e))
    (hhi : v * pow2 (-e) ≤ (c.kinds.of k).allowedHi)
    (hsat : RawInRange c.fmt (rnd (v * pow2 (-e) * pow2 c.fmt.fracBits))) :
    (encodeValue c k v).raw = rnd (v * pow2 (-e) * pow2 c.fmt.fracBits) := by
  obtain ⟨hmin, hmax⟩ := hsat
  rw [encodeValue_raw, he, clamp_of_mem hlo hhi, satW_of_mem hmin hmax]

/-- R84, R112: under a legal configuration SCALE holds the exponent of the lookup. -/
theorem encodeValue_scale_toNat {c : Cfg} {k : Kind} (hk : (c.kinds.of k).wf = true) (v : Value) :
    ((encodeValue c k v).scale.toNat : Int) = lookupExp (c.kinds.of k).table.ranges v := by
  obtain ⟨-, hne, -, hexp⟩ := (KindSpec.wf_iff _).1 hk
  obtain ⟨h0, h7, -⟩ := hexp _ (rangeAt_mem hne v)
  exact toNat_ofInt_three h0 h7

/-- R136: one unit of raw at exponent `e`, as twice the error bound of R131. -/
theorem pow2_neg_mul_pow2 (n : Nat) (e : Int) : pow2 (-n) * pow2 e = 2 * pow2 (e - n - 1) := by
  simp only [pow2_eq_zpow]
  rw [← zpow_add₀ two_ne_zero, ← zpow_one_add₀ two_ne_zero]
  congr 1
  omega

/-- Scaling down and up again by the exponent and by the fractional bits gives the value back. -/
theorem scaled_mul_unit (v : Value) (n : Nat) (e : Int) :
    v * pow2 (-e) * pow2 n * (pow2 (-n) * pow2 e) = v := by
  linear_combination v * pow2_mul_neg e + v * (pow2 e * pow2 (-e)) * pow2_mul_neg n

/-- Settles O54: steps 3 and 4 only round, rounding errs by half a unit of raw, and that unit is worth `2^(e − Fr)`. -/
theorem encodingRoundTripError : Obligations.EncodingRoundTripError := by
  intro c k v hwf t e _ hlo hhi hsat
  obtain ⟨-, -, -, hkinds⟩ := (Cfg.wf_iff c).1 hwf
  have hscale : ((encodeValue c k v).scale.toNat : Int) = e := encodeValue_scale_toNat (hkinds k) v
  obtain ⟨hround, -⟩ := roundingIsToNearestAwayFromZero (v * pow2 (-e) * pow2 c.fmt.fracBits)
  have hscaled := scaled_mul_unit v c.fmt.fracBits e
  have hraw : (encodeValue c k v).raw = rnd (v * pow2 (-e) * pow2 c.fmt.fracBits) :=
    encodeValue_raw_of_inside rfl hlo hhi hsat
  rw [fx, hraw, hscale]
  generalize v * pow2 (-e) * pow2 c.fmt.fracBits = q at hround hscaled ⊢
  have hp : 0 < 2 * pow2 (e - c.fmt.fracBits - 1) := mul_pos two_pos (pow2_pos _)
  rw [pow2_neg_mul_pow2] at hscaled
  calc |rnd q * pow2 (-c.fmt.fracBits) * pow2 e - v|
      = |(rnd q - q) * (2 * pow2 (e - c.fmt.fracBits - 1))| := by
        rw [mul_assoc, pow2_neg_mul_pow2, sub_mul, hscaled]
    _ = |(rnd q : Value) - q| * (2 * pow2 (e - c.fmt.fracBits - 1)) := by rw [abs_mul, abs_of_pos hp]
    _ ≤ 1 / 2 * (2 * pow2 (e - c.fmt.fracBits - 1)) := mul_le_mul_of_nonneg_right hround hp.le
    _ = pow2 (e - c.fmt.fracBits - 1) := by ring

theorem rnd_pow2 (n : Nat) : rnd (pow2 n) = 2 ^ n := by
  rw [pow2_ofNat]
  exact_mod_cast rnd_intCast (2 ^ n)

/-- R118: step 4 takes 1 to the largest raw. -/
theorem satW_rnd_one (f : Fmt) : satW f (rnd (1 * pow2 f.fracBits)) = rawMax f := by
  rw [one_mul, rnd_pow2]
  cases f <;> decide

/-- R118: step 4 takes -1 to the smallest raw. -/
theorem satW_rnd_neg_one (f : Fmt) : satW f (rnd (-1 * pow2 f.fracBits)) = rawMin f := by
  rw [neg_one_mul, rnd_neg, rnd_pow2]
  cases f <;> decide

/-! ### The default tables (R24, R132, R133) -/

theorem defaultKinds_wf (k : Kind) : (KindTable.default.of k).wf = true := by
  obtain ⟨-, -, -, h⟩ := (Cfg.wf_iff _).1 cfgReset_wf
  exact h k

/-- R132: with the default tables an index that is no smaller gives a scale that is no smaller. -/
theorem scale_le_of_index_le {c : Cfg} (hc : c.kinds = .default) {k : Kind} {v1 v2 : Value}
    (h : findSmallestScaleIndex (KindTable.default.of k).table.ranges v1 ≤
      findSmallestScaleIndex (KindTable.default.of k).table.ranges v2) :
    (encodeValue c k v1).scale.toNat ≤ (encodeValue c k v2).scale.toNat := by
  have hk := defaultKinds_wf k
  obtain ⟨-, hne, hasc, -⟩ := (KindSpec.wf_iff _).1 hk
  rw [← hc] at hk h hne hasc
  have hexp := rangeAt_exp_mono hasc h (findSmallestScaleIndex_lt hne v2)
  rw [← Int.ofNat_le, encodeValue_scale_toNat hk, encodeValue_scale_toNat hk]
  exact hexp

/-- R111: ranges from base bounds that are symmetric about 0 are symmetric. -/
theorem ranges_scaled_symmetric {lo hi : Value} (h : lo = -hi) (es : List Int) :
    ∀ r ∈ (ScaleTable.scaled lo hi es).ranges, r.lo = -r.hi := by
  simp [ScaleTable.ranges, h]

/-- R24: the tables from base bounds are symmetric about 0. -/
theorem defaultRanges_symmetric {k : Kind} (hk : k = .unit ∨ k = .atan ∨ k = .hyp ∨ k = .atanh) :
    ∀ r ∈ (KindTable.default.of k).table.ranges, r.lo = -r.hi := by
  rcases hk with rfl | rfl | rfl | rfl
  · exact ranges_scaled_symmetric rfl _
  · exact ranges_scaled_symmetric rfl _
  · exact ranges_scaled_symmetric (Rat.neg_mkRat 559 1000).symm _
  · exact ranges_scaled_symmetric (Rat.neg_mkRat 403 1000).symm _

/-- R24: each band of the LN and SQRT tables begins where the one before it ends. -/
theorem defaultRanges_gapless {k : Kind} (hk : k = .ln ∨ k = .sqrt) :
    (KindTable.default.of k).table.ranges.IsChain fun a b => b.lo ≤ a.hi := by
  rcases hk with rfl | rfl <;> decide

theorem defaultRanges_ne_nil (k : Kind) : (KindTable.default.of k).table.ranges ≠ [] := by
  obtain ⟨-, hne, -⟩ := (KindSpec.wf_iff _).1 (defaultKinds_wf k)
  exact hne

/-- R132: in the LN and SQRT tables, from the first lower bound on, a larger value never gets a smaller scale. -/
theorem scale_mono_of_bands {c : Cfg} (hc : c.kinds = .default) {k : Kind} (hk : k = .ln ∨ k = .sqrt) {v1 v2 : Value}
    (hfirst : (rangeAt (KindTable.default.of k).table.ranges 0).lo ≤ v1) (hv : v1 ≤ v2) :
    (encodeValue c k v1).scale.toNat ≤ (encodeValue c k v2).scale.toNat :=
  scale_le_of_index_le hc
    (findSmallestScaleIndex_mono_of_gapless (defaultRanges_ne_nil k) (defaultRanges_gapless hk) hfirst hv)

/-- R113, R114: 1 is outside the first ATAN range and inside the second. -/
theorem lookupExp_defaultAtan_one : lookupExp (KindTable.default.of .atan).table.ranges 1 = 1 :=
  (lookupExp_cons_of_not_contains (List.cons_ne_nil _ _) (by rw [rangeContains_iff]; norm_num [pow2])).trans
    (lookupExp_cons_of_contains (by rw [rangeContains_iff]; norm_num [pow2]))

/-- R113, R114: -1 is inside the first ATAN range. -/
theorem lookupExp_defaultAtan_neg_one : lookupExp (KindTable.default.of .atan).table.ranges (-1) = 0 :=
  lookupExp_cons_of_contains (by rw [rangeContains_iff]; norm_num [pow2])

/-- Settles O55: index by index, in the symmetric and in the gapless tables. -/
theorem largerMagnitudeNeverGetsSmallerScale : Obligations.LargerMagnitudeNeverGetsSmallerScale := by
  refine ⟨fun c k v1 v2 hc hk hv => ?_, fun c v1 v2 hc hv => ⟨fun hfirst => ?_, fun hfirst => ?_⟩, fun c hc => ?_⟩
  · exact scale_le_of_index_le hc
      (findSmallestScaleIndex_mono_of_symmetric (defaultRanges_ne_nil k) (defaultRanges_symmetric hk) hv)
  · have hlo : (rangeAt (KindTable.default.of .ln).table.ranges 0).lo = 107 / 1000 :=
      Rat.mkRat_eq_div 107 1000
    exact scale_mono_of_bands hc (.inl rfl) (hlo.trans_le hfirst) hv
  · have hlo : (rangeAt (KindTable.default.of .sqrt).table.ranges 0).lo = 27 / 1000 :=
      Rat.mkRat_eq_div 27 1000
    exact scale_mono_of_bands hc (.inr rfl) (hlo.trans_le hfirst) hv
  · rw [encodeValue_scale, encodeValue_scale, hc, lookupExp_defaultAtan_one, lookupExp_defaultAtan_neg_one]
    decide

/-- R133: the value from which on the encoder clamps to the upper end of the allowed range, with the default table of
each kind. -/
def defaultCeiling : Kind → Value
  | .unit => 1
  | .atan => 128
  | .hyp => 1118 / 1000
  | .atanh => 806 / 1000
  | .ln => 16
  | .sqrt => 4

/-- R133: no range of the default table goes past the ceiling. -/
theorem defaultRanges_hi_le_ceiling (k : Kind) :
    ∀ r ∈ (KindTable.default.of k).table.ranges, r.hi ≤ defaultCeiling k := by
  cases k <;> delta defaultCeiling <;>
    norm_num [KindTable.default, KindTable.of, ScaleTable.ranges, pow2, Rat.mkRat_eq_div]

/-- R133: the ceiling at the last scale is no smaller than the upper end of the allowed range. -/
theorem defaultAllowed_le_ceiling (k : Kind) :
    (KindTable.default.of k).allowedHi ≤
      defaultCeiling k * pow2 (-lastExp (KindTable.default.of k).table.ranges) := by
  cases k <;> delta defaultCeiling lastExp <;>
    norm_num [KindTable.default, KindTable.of, ScaleTable.ranges, rangeAt, pow2_eq_zpow, Rat.mkRat_eq_div]

/-- R133: from the ceiling of its kind on, a value is clamped to the upper end of the allowed range. -/
theorem encodeValue_raw_of_ceiling_le {c : Cfg} (hc : c.kinds = .default) (k : Kind) {v : Value}
    (hv : defaultCeiling k ≤ v) :
    (encodeValue c k v).raw = satW c.fmt (rnd ((KindTable.default.of k).allowedHi * pow2 c.fmt.fracBits)) := by
  have hallowed := defaultAllowed_le_ceiling k
  obtain ⟨hle, -⟩ := (KindSpec.wf_iff _).1 (defaultKinds_wf k)
  rw [encodeValue_raw, hc, lookupExp_of_ge fun r hr => (defaultRanges_hi_le_ceiling k r hr).trans hv,
    clamp_of_ge (hallowed.trans (mul_le_mul_of_nonneg_right hv (pow2_pos _).le)) hle]

/-- R118, R133: where the allowed range ends at 1, the clamped value saturates. -/
theorem encodeValue_raw_eq_rawMax {c : Cfg} (hc : c.kinds = .default) (k : Kind)
    (h1 : (KindTable.default.of k).allowedHi = 1) {v : Value} (hv : defaultCeiling k ≤ v) :
    (encodeValue c k v).raw = rawMax c.fmt := by
  rw [encodeValue_raw_of_ceiling_le hc k hv, h1, satW_rnd_one]

/-- R133: from the ceiling on, a value encodes to the raw of the ceiling. -/
theorem encodeValue_raw_eq_ceiling {c : Cfg} (hc : c.kinds = .default) (k : Kind) {v : Value}
    (hv : defaultCeiling k ≤ v) : (encodeValue c k v).raw = (encodeValue c k (defaultCeiling k)).raw := by
  rw [encodeValue_raw_of_ceiling_le hc k hv, encodeValue_raw_of_ceiling_le hc k le_rfl]

/-- Settles O56: from its ceiling on each kind is clamped; the allowed ranges of HYP and ATANH end below 1, where the
raw is that of the ceiling itself. -/
theorem valuesAboveTheTableSaturate : Obligations.ValuesAboveTheTableSaturate := fun _ _ hc =>
  ⟨encodeValue_raw_eq_rawMax hc .unit rfl, encodeValue_raw_eq_rawMax hc .atan rfl,
    encodeValue_raw_eq_ceiling hc .hyp, encodeValue_raw_eq_ceiling hc .atanh,
    encodeValue_raw_eq_rawMax hc .ln rfl, encodeValue_raw_eq_rawMax hc .sqrt rfl⟩

/-! ### Angles (R125, R127) -/

/-- R24: the default UNIT table has one range, of exponent 0. -/
theorem lookupExp_defaultUnit (v : Value) : lookupExp (KindTable.default.of .unit).table.ranges v = 0 :=
  lookupExp_singleton _ v

theorem encodeValue_unit_scale {c : Cfg} (hc : c.kinds = .default) (v : Value) :
    (encodeValue c .unit v).scale = 0 := by
  rw [encodeValue_scale, hc, lookupExp_defaultUnit]
  rfl

/-- R118: the lower end of the UNIT range is the smallest raw. -/
theorem encodeValue_unit_raw_of_le {c : Cfg} (hc : c.kinds = .default) {v : Value} (hv : v ≤ -1) :
    (encodeValue c .unit v).raw = rawMin c.fmt := by
  have hlo : v * pow2 (-0) ≤ -1 := by simpa [pow2_eq_zpow] using hv
  have hclamp : clamp (v * pow2 (-0)) (KindTable.default.of .unit).allowedLo
      (KindTable.default.of .unit).allowedHi = -1 := clamp_of_le hlo (by decide)
  rw [encodeValue_raw, hc, lookupExp_defaultUnit, hclamp, satW_rnd_neg_one]

/-- Settles O57: the UNIT kind has the scale 0, and clamps and saturates from 1 and from -1 on. -/
theorem anglesAreNotWrapped : Obligations.AnglesAreNotWrapped := by
  intro c d hc
  have cell {n : Int} (h : (encodeValue c .unit (d / 180)).raw = n) : angleFromDegrees c d = ⟨n, 0, 1⟩ := by
    rw [← h, ← encodeValue_unit_scale hc (d / 180)]
    rfl
  constructor
  · intro hd
    have hv : (1 : Value) ≤ d / 180 := by
      have : (180 : Value) ≤ d := by exact_mod_cast hd
      linarith
    exact cell (encodeValue_raw_eq_rawMax hc .unit rfl hv)
  · intro hd
    have hv : (d / 180 : Value) ≤ -1 := by
      have : (d : Value) ≤ -180 := by exact_mod_cast hd
      linarith
    exact cell (encodeValue_unit_raw_of_le hc hv)

/-! ### Bus words (R121, R122) -/

/-- R26, R123: the W-bit pattern of a raw reads back as the raw. -/
theorem toInt_ofInt_of_rawInRange {f : Fmt} {r : Int} (h : RawInRange f r) : (BitVec.ofInt f.width r).toInt = r := by
  obtain ⟨hlo, hhi⟩ := h
  exact BitVec.toInt_ofInt_eq_self (by cases f <;> decide) hlo (Int.lt_of_le_sub_one hhi)

/-- R121: in Q1_15 the bus word is the sign extension of the 16-bit pattern of the raw. -/
theorem rawToWord_eq_signExtend {r : Int} (h : RawInRange .q1_15 r) :
    rawToWord r = (BitVec.ofInt 16 r).signExtend 32 := by
  have hr : (BitVec.ofInt 16 r).toInt = r := toInt_ofInt_of_rawInRange h
  rw [BitVec.signExtend, hr, rawToWord]

/-- The low half of a sign-extended word is the word that was extended. -/
theorem extractLsb'_signExtend (x : BitVec 16) : (x.signExtend 32).extractLsb' 0 16 = x := by
  apply BitVec.eq_of_getLsbD_eq
  intro i hi
  have hi32 : i < 32 := by omega
  simp only [BitVec.getLsbD_extractLsb', BitVec.getLsbD_signExtend, hi, hi32, Nat.zero_add, decide_true, Bool.true_and,
    if_true]

/-- R122: the raw of a bus word is the raw the word was made of. -/
theorem wordToRaw_rawToWord {f : Fmt} {r : Int} (h : RawInRange f r) : wordToRaw f (rawToWord r) = r := by
  cases f with
  | q1_15 =>
    rw [rawToWord_eq_signExtend h, wordToRaw, extractLsb'_signExtend]
    exact toInt_ofInt_of_rawInRange h
  | q1_31 => exact toInt_ofInt_of_rawInRange h

/-- Settles O58: a Q1_15 raw is read from the low half, and its bus word repeats bit 15 above it. -/
theorem busWordRoundTrip : Obligations.BusWordRoundTrip := by
  refine ⟨fun f r h => wordToRaw_rawToWord h, fun w w' h => congrArg BitVec.toInt h, fun r j h hj hj32 => ?_⟩
  rw [rawToWord_eq_signExtend h, BitVec.getLsbD_signExtend, BitVec.getLsbD_signExtend, BitVec.msb_eq_getLsbD_last]
  rcases hj.lt_or_eq with hlt | rfl
  · simp [hj32, show ¬ j < 16 by omega]
  · rfl

end Sys2Proof.Machine
end

section
/-! PROOFS. The statements of 44_sequencer.md about one step: the instruction a step runs, the acceptance of a CALC and
its refusals, the bus access at each SEQ, the frame, and the movement of SEQ. -/

namespace Sys2Proof.Machine

variable {s t : State}

/-! ### The instruction a step runs -/

theorem fetch_of_idle (hq : s.seq = .idle) : fetch s = decode s.cfg.desc (selectedWord s) := by
  rw [fetch, controlWord, if_pos hq]

theorem fetch_of_running (hr : s.seq ≠ .idle) : fetch s = decode s.cfg.desc (latchedWord s) := by
  rw [fetch, controlWord, if_neg hr]

/-- R31, R43: while a transaction runs, the sequencer's turn runs the instruction fetched. -/
theorem step_turn {i : Instr} (hw : s.cfg.wf = true) (hr : s.seq ≠ .idle)
    (ha : s.agenda = [] ∨ ∃ rest, s.agenda = .access :: rest) (hf : fetch s = .ok i) :
    step s = exec i (takeMove s) := by
  have hn : nextAction s = .run i := by
    rcases ha with ha | ⟨rest, ha⟩ <;> simp [nextAction, hw, ha, sequencerTurn, hr, runFetched, hf]
  rw [step, hn, perform]

/-- Settles O8: what is fetched at `idle` is the selected word, and else the latched word. -/
theorem stepRunsTheDecodedInstruction : Obligations.StepRunsTheDecodedInstruction :=
  ⟨fun _ _ _ hw hq ha hd => step_calc hw hq ha ((fetch_of_idle hq).trans hd),
    fun _ _ hw hr ha hd => step_turn hw hr ha ((fetch_of_running hr).trans hd)⟩

/-! ### Busy -/

/-- R180. -/
theorem whenIdle_of_running (hr : s.seq ≠ .idle) (k : Host.Outcome State Fault Refusal) :
    whenIdle s k = .refused .busy :=
  if_neg hr

/-- R180: while a transaction runs every command is refused, its own conditions not looked at. -/
theorem execCommand_of_running (hr : s.seq ≠ .idle) (c : Command) : execCommand c s = .refused .busy := by
  cases c with
  | create | setArg1 | setArg2 | setArg | setVec | getRes | getRes2 | getScale => exact whenIdle_of_running hr _
  -- CALC, the constructor left.
  | _ => rfl

/-- Settles O12: CALC is refused before the fetch, every other command by its own test. -/
theorem commandsAreRefusedWhileBusy : Obligations.CommandsAreRefusedWhileBusy := by
  intro s c rest hw hr ha
  by_cases hc : c = .calc
  · have hn : nextAction s = .refuse .busy := by simp [nextAction, hw, ha, hc, hr]
    rw [step, hn, perform]
  · rw [(stepPerformsTheMoveNext s rest hw).1 c hc ha]
    exact execCommand_of_running (s := { s with agenda := rest }) hr c

/-! ### Acceptance -/

/-- R186: at `idle` an instruction is an acceptance. -/
theorem exec_idle (i : Instr) (hq : s.seq = .idle) : exec i s = acceptCalc i.func s := by
  rw [exec_eq_runCalc, runCalc, hq]

/-- R186: the operands a CALC of `f` needs are written. -/
def OperandsWritten (f : Func) (s : State) : Prop :=
  s.fsel.written = true ∧ s.a1.written = true ∧ ((s.cfg.desc.of f).nargs = .two → s.a2.written = true)

/-- The acceptance makes the test of `OperandsWritten`. -/
theorem operandsWritten_iff {f : Func} :
    (s.fsel.written && s.a1.written && ((s.cfg.desc.of f).nargs == .one || s.a2.written)) = true ↔
      OperandsWritten f s := by
  cases h : (s.cfg.desc.of f).nargs <;> simp [OperandsWritten, h, and_assoc]

theorem acceptCalc_of_written {f : Func} (hw : OperandsWritten f s) (hc : s.clock = true) :
    acceptCalc f s = .next { s with
      seq := .cfg
      latch := ⟨f.code, (s.cfg.desc.of f).nargs, (s.cfg.desc.of f).nres, s.a1.cell.scale, rawToWord s.a1.cell.raw,
        rawToWord s.a2.cell.raw⟩
      engine := engineAtAcceptance s.draws s.engine
      cfgField := .func
      cfgHeld := none
      bus := []
      draws := s.draws + 1 } := by
  rw [acceptCalc, if_pos (operandsWritten_iff.2 hw), if_pos hc]

theorem acceptCalc_of_unwritten {f : Func} (hw : ¬ OperandsWritten f s) : acceptCalc f s = .refused .noOperation := by
  rw [acceptCalc, if_neg (operandsWritten_iff.not.2 hw)]

theorem acceptCalc_of_unclocked {f : Func} (hw : OperandsWritten f s) (hc : s.clock = false) :
    acceptCalc f s = .refused .clock := by
  rw [acceptCalc, if_pos (operandsWritten_iff.2 hw), hc]
  rfl

/-- R239: the engine is kept when RDY is 0 and the slot empty (log 8). -/
theorem engineAtAcceptance_eq (n : Nat) (e : Engine) :
    engineAtAcceptance n e = if e.erdy = false ∧ e.slot = .empty then e else Config.freeEngine n := by
  simp only [engineAtAcceptance, engineIdle_iff]

/-- Settles O16. -/
theorem calcIsAccepted : Obligations.CalcIsAccepted := by
  intro i s hq hf h1 h2 hc
  rw [exec_idle i hq, acceptCalc_of_written ⟨hf, h1, h2⟩ hc, engineAtAcceptance_eq]
  rfl

/-- Settles O17: the operands are tested before the clock. -/
theorem calcIsRefusedInOrder : Obligations.CalcIsRefusedInOrder := by
  intro i s hq
  rw [exec_idle i hq]
  refine ⟨fun h => acceptCalc_of_unwritten ?_, fun hf h1 h2 hc => acceptCalc_of_unclocked ⟨hf, h1, h2⟩ hc⟩
  rintro ⟨hf, h1, h2⟩
  rcases h with h | h | ⟨hn, h⟩
  · simp [hf] at h
  · simp [h1] at h
  · simp [h2 hn] at h

/-! ### The bus access at each SEQ -/

/-- R193: at CFG a CALC makes an access of its control write. -/
theorem exec_cfg (i : Instr) (hq : s.seq = .cfg) :
    exec i s = writeControl (csrWord i.fields.argSize i.fields.resSize s.latch.ln s.latch.lr i.fields.scale
      i.fields.precision i.func.code) s := by
  rw [exec_eq_runCalc, runCalc, hq]

/-- R193 `single`. -/
theorem writeControl_single (w : Word) (hm : s.cfg.csrWriteMode = .single) :
    writeControl w s = .next { s with
      seq := .wr1
      engine := clockedEngine s (engineWriteCsr w s.engine)
      bus := .write (csrAddr s.cfg) w :: s.bus
      draws := s.draws + 1 } := by
  rw [writeControl_eq, hm]
  rfl

/-- R193 `per_field`: the read of a field. -/
theorem writeControl_read (w : Word) (hm : s.cfg.csrWriteMode = .perField) (hh : s.cfgHeld = none)
    (hc : s.clock = true) :
    writeControl w s = .next { s with
      cfgHeld := some (engineReadCsr s.engine)
      bus := .read (csrAddr s.cfg) (engineReadCsr s.engine) :: s.bus
      draws := s.draws + 1 } := by
  rw [writeControl_eq, hm, hh, clockedRead_on hc]
  rfl

/-- The state after the write of a field, at the field still (R193). -/
def fieldWritten (r w : Word) (s : State) : State :=
  { s with
    engine := engineWriteCsr (fieldUpdate s.cfgField r w) s.engine
    bus := .write (csrAddr s.cfg) (fieldUpdate s.cfgField r w) :: s.bus
    draws := s.draws + 1
    cfgHeld := none }

/-- R193 `per_field`: the write of a field before the last. -/
theorem writeControl_field {g : CsrField} {r : Word} (w : Word) (hm : s.cfg.csrWriteMode = .perField)
    (hh : s.cfgHeld = some r) (hc : s.clock = true) (hx : s.cfgField.after = some g) :
    writeControl w s = .next { fieldWritten r w s with cfgField := g } := by
  simp only [writeControl_eq, hm, hh, hx, clockedEngine_on hc]
  rfl

/-- R193 `per_field`: the write of the last field. -/
theorem writeControl_last {r : Word} (w : Word) (hm : s.cfg.csrWriteMode = .perField)
    (hh : s.cfgHeld = some r) (hc : s.clock = true) (hx : s.cfgField.after = none) :
    writeControl w s = .next { fieldWritten r w s with cfgField := .func, seq := .wr1 } := by
  simp only [writeControl_eq, hm, hh, hx, clockedEngine_on hc]
  rfl

/-- Settles O18. -/
theorem controlWordIsWrittenOnce : Obligations.ControlWordIsWrittenOnce := by
  intro i s hq hm w
  rw [exec_cfg i hq, writeControl_single w hm]
  rfl

/-- Settles O19: the read, a write that is not the last, the last write. -/
theorem controlWordIsWrittenByFields : Obligations.ControlWordIsWrittenByFields := by
  intro i s hq hm hc w m
  rw [exec_cfg i hq]
  exact ⟨fun hh => writeControl_read w hm hh hc, fun r hh =>
    ⟨fun g hx => writeControl_field w hm hh hc hx, fun hx => writeControl_last w hm hh hc hx⟩⟩

theorem afterArg1_eq (n : Count) : afterArg1 n = if n = .two then .wr2 else .poll := by
  cases n <;> rfl

theorem afterResult1_eq (n : Count) : afterResult1 n = if n = .two then .rd2 else .idle := by
  cases n <;> rfl

variable {f : Func} {x : Fields}

/-- R194: the first argument word, clocked. -/
theorem runCalc_wr1 (hq : s.seq = .wr1) (hc : s.clock = true) :
    runCalc f x s = .next { s with
      seq := afterArg1 s.latch.ln
      engine := engineWriteData s.draws s.latch.lw1 s.engine
      bus := .write (wdataAddr s.cfg) s.latch.lw1 :: s.bus
      draws := s.draws + 1 } := by
  simp only [runCalc, hq, writeArg1_eq, clockedEngine_on hc]
  rfl

/-- R194: the second argument word, clocked. -/
theorem runCalc_wr2 (hq : s.seq = .wr2) (hc : s.clock = true) :
    runCalc f x s = .next { s with
      seq := .poll
      engine := engineWriteData s.draws s.latch.lw2 s.engine
      bus := .write (wdataAddr s.cfg) s.latch.lw2 :: s.bus
      draws := s.draws + 1 } := by
  simp only [runCalc, hq, writeArg2_eq, clockedEngine_on hc]
  rfl

/-- R195: a poll, clocked. -/
theorem runCalc_poll (hq : s.seq = .poll) (hc : s.clock = true) :
    runCalc f x s = .next { s with
      seq := if s.engine.erdy then .rd1 else .poll
      bus := .read (csrAddr s.cfg) (engineReadCsr s.engine) :: s.bus
      draws := s.draws + 1 } := by
  simp only [runCalc, hq, pollReady_eq, clockedRead_on hc, rdy_engineReadCsr]
  rfl

/-- R196: the primary result, clocked. -/
theorem runCalc_rd1 (hq : s.seq = .rd1) (hc : s.clock = true) :
    runCalc f x s = .next { s with
      seq := afterResult1 s.latch.lr
      r1 := ⟨cellFromWord s.cfg.fmt (engineReadData s.cfg s.draws s.engine).1 s.latch.ls
        ((s.cfg.desc.of f).post1.value s.cfg.pi), true⟩
      engine := (engineReadData s.cfg s.draws s.engine).2
      bus := .read (rdataAddr s.cfg) (engineReadData s.cfg s.draws s.engine).1 :: s.bus
      draws := s.draws + 1 } := by
  simp only [runCalc, hq, readResult1_eq, clockedRead_on hc]
  rfl

/-- R196: the secondary result, clocked. -/
theorem runCalc_rd2 (hq : s.seq = .rd2) (hc : s.clock = true) :
    runCalc f x s = .next { s with
      seq := .idle
      r2 := ⟨cellFromWord s.cfg.fmt (engineReadData s.cfg s.draws s.engine).1 s.latch.ls
        ((s.cfg.desc.of f).post2.value s.cfg.pi), true⟩
      engine := (engineReadData s.cfg s.draws s.engine).2
      bus := .read (rdataAddr s.cfg) (engineReadData s.cfg s.draws s.engine).1 :: s.bus
      draws := s.draws + 1 } := by
  simp only [runCalc, hq, readResult2_eq, clockedRead_on hc]
  rfl

/-- Settles O21. -/
theorem argumentWordsAreWritten : Obligations.ArgumentWordsAreWritten := by
  intro i s hc
  rw [exec_eq_runCalc, ← afterArg1_eq]
  exact ⟨fun hq => runCalc_wr1 hq hc, fun hq => runCalc_wr2 hq hc⟩

/-- Settles O22. -/
theorem pollReadsUntilReady : Obligations.PollReadsUntilReady := by
  intro i s hq hc
  rw [exec_eq_runCalc]
  exact runCalc_poll hq hc

/-- Settles O23. -/
theorem primaryResultIsStored : Obligations.PrimaryResultIsStored := by
  intro i s hq hc
  rw [exec_eq_runCalc, ← afterResult1_eq]
  exact runCalc_rd1 hq hc

/-- Settles O24. -/
theorem secondaryResultIsStored : Obligations.SecondaryResultIsStored := by
  intro i s hq hc
  rw [exec_eq_runCalc]
  exact runCalc_rd2 hq hc

/-! ### The frame and the movement of SEQ -/

/-- Settles O27, at each SEQ from the one thing a step there can do. -/
theorem calcFrame : Obligations.CalcFrame := by
  intro i s t h
  rw [exec_eq_runCalc] at h
  obtain ⟨hcfg, hfsel, ha1, ha2, hclock, hagenda, hreply⟩ := runCalc_frame h
  refine ⟨hcfg, hfsel, ha1, ha2, hclock, hagenda, hreply, ?_⟩
  rcases runCalc_next h with ⟨hq, h⟩ | ⟨hq, h⟩ | ⟨hq, rfl⟩ | ⟨hq, rfl⟩ | ⟨hq, y, rfl, rfl⟩ | ⟨hq, y, rfl, rfl⟩ |
    ⟨hq, y, rfl, rfl⟩
  · obtain ⟨-, -, -, -, rfl⟩ := acceptCalc_next h
    simpa [hq] using fun hidle => engineAtAcceptance_of_idle hidle
  · rcases writeControl_next h with ⟨hm, rfl⟩ | ⟨hm, hh, rfl⟩ | ⟨r, hm, hh, u, rfl, ⟨g, -, rfl⟩ | ⟨-, rfl⟩⟩
    · simp +contextual [hq, hm, accessAddr, clockedEngine, engineWriteCsr]
    · simp +contextual [hq, accessAddr, clockedRead]
    · simp +contextual [hq, hh, accessAddr, clockedEngine, engineWriteCsr]
    · simp +contextual [hq, hh, accessAddr, clockedEngine, engineWriteCsr]
  · simpa [hq] using fun hc hs => clockedEngine_on hc _ ▸ engineWriteData_frame s.draws s.latch.lw1 hs
  · simpa [hq] using fun hc hs => clockedEngine_on hc _ ▸ engineWriteData_frame s.draws s.latch.lw2 hs
  · simp +contextual [hq, clockedRead]
  · simpa [hq] using fun hc hm hs => clockedRead_on hc _ ▸ engineReadData_frame s.cfg s.draws hm hs
  · simpa [hq] using fun hc hm hs => clockedRead_on hc _ ▸ engineReadData_frame s.cfg s.draws hm hs

/-- Settles O28. -/
theorem seqMovesAsTheSteps : Obligations.SeqMovesAsTheSteps := by
  intro i s t h
  rw [exec_eq_runCalc] at h
  rcases runCalc_next h with ⟨hq, h⟩ | ⟨hq, h⟩ | ⟨hq, rfl⟩ | ⟨hq, rfl⟩ | ⟨hq, y, -, rfl⟩ | ⟨hq, y, -, rfl⟩ |
    ⟨hq, y, -, rfl⟩
  · rw [hq]
    obtain ⟨-, -, -, -, rfl⟩ := acceptCalc_next h
    rfl
  · rw [hq]
    rcases writeControl_next h with ⟨-, rfl⟩ | ⟨hm, -, rfl⟩ | ⟨r, hm, -, u, rfl, ⟨g, -, rfl⟩ | ⟨-, rfl⟩⟩
    · exact .inl rfl
    · exact .inr ⟨hq, hm⟩
    · exact .inr ⟨hq, hm⟩
    · exact .inl rfl
  · rw [hq]
    cases hn : s.latch.ln
    · exact .inr ⟨rfl, rfl⟩
    · exact .inl ⟨rfl, rfl⟩
  · rw [hq]
  · rw [hq]
    exact ⟨y.1, rfl, rfl⟩
  · rw [hq]
    cases hn : s.latch.lr
    · exact .inr ⟨rfl, rfl⟩
    · exact .inl ⟨rfl, rfl⟩
  · rw [hq]

end Sys2Proof.Machine
end

section
/-! PROOFS. The field-by-field control write: ten fields, each a read and a write, bring CSR to the control word (R193). -/

namespace Sys2Proof.Machine

variable {s t u : State} {rest : List Move}

/-! ### Runs -/

theorem run_one (h : step s = .next t) : Sys2Proof.core.run 1 s = .next t :=
  run_succ 0 h

theorem run_two (h : step s = .next t) (h' : step t = .next u) : Sys2Proof.core.run 2 s = .next u :=
  (run_succ 1 h).trans (run_one h')

/-- A run after a run. -/
theorem run_trans {a b : Nat} (h : Sys2Proof.core.run a s = .next t) (h' : Sys2Proof.core.run b t = .next u) :
    Sys2Proof.core.run (a + b) s = .next u :=
  (run_add a b h).trans h'

/-- R66: in the invariant a turn of the sequencer is a step of the selected CALC. -/
theorem State.Inv.step_access (h : s.Inv) (hr : s.seq ≠ .idle) (ha : s.agenda = .access :: rest) :
    step s = Machine.runCalc s.fsel.func (selectedFields s) { s with agenda := rest } := by
  rw [step_turn h.cfg_wf hr (.inr ⟨rest, ha⟩) h.fetch_eq, exec_eq_runCalc, make_func, make_fields, Machine.takeMove, ha,
    List.tail_cons]

/-- R193: in the invariant a turn of the sequencer at CFG is an access of the write of the latched word. -/
theorem State.Inv.step_cfg (h : s.Inv) (hq : s.seq = .cfg) (ha : s.agenda = .access :: rest) :
    step s = Machine.writeControl (latchedWord s) { s with agenda := rest } := by
  have hr : s.seq ≠ .idle := by simp [hq]
  obtain ⟨-, hlatch⟩ := h.running hr
  rw [h.step_access hr ha, ← csrWord_selectedFields hlatch]
  simp only [Machine.runCalc, hq]

/-! ### The fields -/

/-- The word put back for the field that a field-by-field write has come to (R193). -/
def fieldWord (s : State) : Word := fieldUpdate s.cfgField (engineReadCsr s.engine) (latchedWord s)

/-- The state after the read and the write of that field, but for the place of the write and SEQ. -/
def fieldDone (s : State) (rest : List Move) : State :=
  { s with
    engine := engineWriteCsr (fieldWord s) s.engine
    agenda := rest
    bus := [.write (csrAddr s.cfg) (fieldWord s), .read (csrAddr s.cfg) (engineReadCsr s.engine)] ++ s.bus
    draws := s.draws + 2
    cfgHeld := none }

section Field

variable (h : s.Inv) (hq : s.seq = .cfg) (hm : s.cfg.csrWriteMode = .perField) (hh : s.cfgHeld = none)
  (hc : s.clock = true) (ha : s.agenda = .access :: .access :: rest)

include h hq hm hh hc ha

/-- R193: the two turns of a field before the last. -/
theorem run_field {g : CsrField} (hx : s.cfgField.after = some g) :
    Sys2Proof.core.run 2 s = .next { fieldDone s rest with cfgField := g } := by
  have hread := (h.step_cfg hq ha).trans (writeControl_read _ hm hh hc)
  have hi := everyStepKeepsTheInvariant _ _ h hread
  exact run_two hread ((hi.step_cfg hq rfl).trans (writeControl_field _ hm rfl hc hx))

/-- R193: the two turns of the last field. -/
theorem run_lastField (hx : s.cfgField.after = none) :
    Sys2Proof.core.run 2 s = .next { fieldDone s rest with cfgField := .func, seq := .wr1 } := by
  have hread := (h.step_cfg hq ha).trans (writeControl_read _ hm hh hc)
  have hi := everyStepKeepsTheInvariant _ _ h hread
  exact run_two hread ((hi.step_cfg hq rfl).trans (writeControl_last _ hm rfl hc hx))

end Field

theorem after_eq_none_iff {x : CsrField} : x.after = none ↔ fieldIndex x = 9 := by
  cases x <;> decide

/-- R193: with the word of a field in CSR, the fields before the next one are in force. -/
theorem fieldWord_in_force {g : CsrField} (hx : s.cfgField.after = some g)
    (hdone : s.engine.csr.setWidth 32 &&& doneMask s.cfgField = latchedWord s &&& doneMask s.cfgField) :
    ((fieldWord s).extractLsb' 0 23).setWidth 32 &&& doneMask g = latchedWord s &&& doneMask g := by
  have hnamed : fieldWord s &&& 0x007F07FF = fieldWord s := fieldUpdate_and_named ..
  rw [setWidth_low_of_and_named hnamed, doneMask_after hx]
  exact fieldUpdate_and_doneMask (engineReadCsr_and_named s.engine) hdone

/-- R193: the place of the write may move on with the field in CSR. -/
theorem State.Inv.fieldDone (h : s.Inv) (hq : s.seq = .cfg) (hm : s.cfg.csrWriteMode = .perField) (g : CsrField) :
    State.Inv { Machine.fieldDone s rest with cfgField := g } :=
  (h.setPlace hq hm g none).setEnvironment ..

/-- R193: from any field on, with the fields before it in CSR, that field and the `j` fields after it bring CSR to the
control word. -/
theorem run_fields (j : Nat) : ∀ {s : State}, s.Inv → s.seq = .cfg → s.cfg.csrWriteMode = .perField →
    s.cfgHeld = none → s.clock = true → fieldIndex s.cfgField + j = 9 →
    s.engine.csr.setWidth 32 &&& doneMask s.cfgField = latchedWord s &&& doneMask s.cfgField →
    s.agenda = List.replicate (2 * (j + 1)) .access ++ rest →
    ∃ bus, bus.length = 2 * (j + 1) ∧ Sys2Proof.core.run (2 * (j + 1)) s = .next { s with
      seq := .wr1
      engine := { s.engine with csr := (latchedWord s).extractLsb' 0 23 }
      cfgField := .func
      cfgHeld := none
      agenda := rest
      bus := bus ++ s.bus
      draws := s.draws + 2 * (j + 1) } := by
  induction j with
  | zero =>
    intro s h hq hm hh hc hj hdone ha
    have hx : s.cfgField.after = none := after_eq_none_iff.2 hj
    have hword : fieldWord s = latchedWord s :=
      fieldUpdate_last hx (latchedWord_and_named s) (engineReadCsr_and_named s.engine) hdone
    rw [← hword]
    have hrun := run_lastField h hq hm hh hc ha hx
    exact ⟨[.write (csrAddr s.cfg) (fieldWord s), .read (csrAddr s.cfg) (engineReadCsr s.engine)], rfl, hrun⟩
  | succ j ih =>
    intro s h hq hm hh hc hj hdone ha
    obtain ⟨g, hx⟩ : ∃ g, s.cfgField.after = some g :=
      Option.ne_none_iff_exists'.1 (after_eq_none_iff.not.2 (by omega))
    have hj' : fieldIndex g + j = 9 := by
      have := fieldIndex_after hx
      omega
    have ha' : s.agenda = .access :: .access :: (List.replicate (2 * (j + 1)) .access ++ rest) := by
      rw [ha, show 2 * (j + 1 + 1) = 2 * (j + 1) + 1 + 1 by omega]
      rfl
    have hrun := run_field h hq hm hh hc ha' hx
    obtain ⟨bus, hlen, hrest⟩ := ih (h.fieldDone hq hm g) hq hm rfl hc hj' (fieldWord_in_force hx hdone) rfl
    refine ⟨bus ++ [.write (csrAddr s.cfg) (fieldWord s), .read (csrAddr s.cfg) (engineReadCsr s.engine)], ?_, ?_⟩
    · rw [List.length_append, hlen]
      rfl
    · rw [show 2 * (j + 1 + 1) = 2 + 2 * (j + 1) by omega, List.append_assoc, ← Nat.add_assoc]
      exact run_trans hrun hrest

/-- Settles O20: a field-by-field write starts with no field in CSR, and nine fields stand after the first. -/
theorem fieldWritesReachTheControlWord : Obligations.FieldWritesReachTheControlWord := by
  intro s rest h hq hm hf hh hc ha
  have hdone : s.engine.csr.setWidth 32 &&& doneMask s.cfgField = latchedWord s &&& doneMask s.cfgField := by
    simp [hf, doneMask]
  obtain ⟨bus, hlen, hrun⟩ := run_fields 9 h hq hm hh hc (by rw [hf]; rfl) hdone ha
  rw [← hf, ← hh] at hrun
  exact ⟨bus, hlen, hrun⟩

end Sys2Proof.Machine
end

section
/-! PROOFS. The whole transaction in the mode `single`: from CFG to POLL and the polls that find RDY 0, the engine's step,
and from the poll that finds RDY 1 to `idle`. -/

namespace Sys2Proof.Machine

variable {s t : State} {rest : List Move}

/-- What every step keeps, a run keeps. -/
theorem run_preserves (M : Host.Core) {P : M.State → Prop} (hstep : ∀ x y, P x → M.step x = .next y → P y) (n : Nat) :
    ∀ {x y : M.State}, P x → M.run n x = .next y → P y := by
  induction n with
  | zero =>
    intro x y hx h
    injection h with h
    exact h ▸ hx
  | succ n ih =>
    intro x y hx h
    rw [Host.Core.run] at h
    split at h
    · exact ih (hstep _ _ hx ‹_›) h
    · cases h
    · cases h

/-- Both invariants: that of the block, and block and engine in step. -/
def InStep (s : State) : Prop := s.Inv ∧ s.EngineSync

theorem InStep.step (h : InStep s) (hs : Machine.step s = .next t) : InStep t :=
  ⟨everyStepKeepsTheInvariant s t h.1 hs, everyStepKeepsTheEngineInStep s t h.1 h.2 hs⟩

theorem InStep.run (h : InStep s) {n : Nat} (hs : Sys2Proof.core.run n s = .next t) : InStep t :=
  run_preserves Sys2Proof.core (fun _ _ => InStep.step) n h hs

/-- R41 item 4: what a poll reads before the engine's step, with the control word of the transaction in force. -/
theorem engineReadCsr_of_not_ready (h : csrInForce s) (hr : s.engine.erdy = false) :
    engineReadCsr s.engine = latchedWord s := by
  have hw := latchedWord_and_named s
  rw [engineReadCsr, hr, h, setWidth_low_of_and_named hw, hw]
  exact BitVec.zero_or

/-- R41 item 4: what a poll reads after it. -/
theorem engineReadCsr_of_ready (h : csrInForce s) (hr : s.engine.erdy = true) :
    engineReadCsr s.engine = latchedWord s ||| 0x80000000 := by
  have hw := latchedWord_and_named s
  rw [engineReadCsr, hr, h, setWidth_low_of_and_named hw, hw]
  exact BitVec.or_comm _ _

/-- R41 item 5: the only declared result word. -/
theorem engineReadData_only {c : Cfg} {n : Nat} {e : Engine} (hc : countsMatch c e = true) (h : e.slot = .ready0)
    (hn : engineNres e = .one) : engineReadData c n e = (e.res1, { e with erdy := false, slot := .empty }) := by
  simp only [engineReadData, hc, h, hn, if_true]

/-- R41 item 5: the first of two declared result words. -/
theorem engineReadData_first_of_two {c : Cfg} {n : Nat} {e : Engine} (hc : countsMatch c e = true)
    (h : e.slot = .ready0) (hn : engineNres e = .two) : engineReadData c n e = (e.res1, { e with slot := .ready1 }) := by
  simp only [engineReadData, hc, h, hn, if_true]

theorem argumentAccesses_one (hn : s.latch.ln = .one) :
    argumentAccesses s = [.write (wdataAddr s.cfg) s.latch.lw1] := by
  rw [argumentAccesses, hn]

theorem argumentAccesses_two (hn : s.latch.ln = .two) :
    argumentAccesses s = [.write (wdataAddr s.cfg) s.latch.lw2, .write (wdataAddr s.cfg) s.latch.lw1] := by
  rw [argumentAccesses, hn]

section Steps

variable (h : InStep s)

include h

/-- R186: from `idle` a CALC on an operation created is accepted and loads the latches. -/
theorem InStep.step_calc (hq : s.seq = .idle) (hw : s.fsel.written = true) (ha : s.agenda = .command .calc :: rest) :
    Machine.step s = .next { s with
      seq := .cfg
      latch := calledLatches s
      agenda := rest
      bus := []
      draws := s.draws + 1 } := by
  obtain ⟨hi, hsync⟩ := h
  obtain ⟨hfield, hheld⟩ := hi.cfg_place (.inl (by simp [hq]))
  have hwritten : OperandsWritten s.fsel.func { s with agenda := rest } :=
    ⟨hw, hi.created.1.1 hw, fun _ => hi.created.2.1 hw⟩
  rw [Machine.step_calc hi.cfg_wf hq ha hi.fetch_eq, exec_idle (s := { s with agenda := rest }) _ hq, make_func,
    acceptCalc_of_written hwritten hsync.clocked, engineAtAcceptance_of_idle (hsync.idle hq), ← hfield, ← hheld]
  rfl

/-- R193 `single`: at CFG the control word reaches CSR. -/
theorem InStep.step_cfg (hq : s.seq = .cfg) (hm : s.cfg.csrWriteMode = .single) (ha : s.agenda = .access :: rest) :
    Machine.step s = .next { s with
      seq := .wr1
      engine := engineWriteCsr (latchedWord s) s.engine
      agenda := rest
      bus := .write (csrAddr s.cfg) (latchedWord s) :: s.bus
      draws := s.draws + 1 } := by
  have hwrite := writeControl_single (s := { s with agenda := rest }) (latchedWord s) hm
  rw [clockedEngine_on (by exact h.2.clocked)] at hwrite
  exact (h.1.step_cfg hq ha).trans hwrite

/-- R194: from WR1 the declared argument words are written, and POLL finds RDY 0. -/
theorem InStep.run_arguments (hq : s.seq = .wr1) (ha : s.agenda = List.replicate s.latch.ln.toNat .access ++ rest) :
    ∃ e d, Sys2Proof.core.run s.latch.ln.toNat s = .next { s with
        seq := .poll, engine := e, agenda := rest, bus := argumentAccesses s ++ s.bus, draws := d } ∧
      e.erdy = false := by
  obtain ⟨hidle, -⟩ := h.2.wr1 hq
  obtain ⟨hrdy, hslot⟩ := engineIdle_iff.1 hidle
  have hrdy1 : (engineWriteData s.draws s.latch.lw1 s.engine).erdy = false :=
    engineWriteData_erdy (by simp [hslot]) hrdy
  cases hn : s.latch.ln with
  | one =>
    rw [hn] at ha
    have h1 := (h.1.step_access (by simp [hq]) ha).trans (runCalc_wr1 hq h.2.clocked)
    simp only [hn] at h1
    rw [argumentAccesses_one hn]
    exact ⟨_, _, run_one h1, hrdy1⟩
  | two =>
    rw [hn] at ha
    have h1 := (h.1.step_access (by simp [hq]) ha).trans (runCalc_wr1 hq h.2.clocked)
    simp only [hn] at h1
    have h' := h.step h1
    have h2 := (h'.1.step_access nofun rfl).trans (runCalc_wr2 rfl h.2.clocked)
    obtain ⟨hslot2, -, -⟩ := h'.2.wr2 rfl
    rw [argumentAccesses_two hn]
    exact ⟨_, _, run_two h1 h2, engineWriteData_erdy (by rw [hslot2]; nofun) hrdy1⟩

/-- R195: one poll. -/
theorem InStep.step_poll (hq : s.seq = .poll) (ha : s.agenda = .access :: rest) :
    Machine.step s = .next { s with
      seq := if s.engine.erdy then .rd1 else .poll
      agenda := rest
      bus := .read (csrAddr s.cfg) (engineReadCsr s.engine) :: s.bus
      draws := s.draws + 1 } :=
  (h.1.step_access (by simp [hq]) ha).trans (runCalc_poll hq h.2.clocked)

end Steps

/-- R195: polls that find RDY 0 change nothing but the bus log. -/
theorem InStep.run_polls (k : Nat) : ∀ {s : State}, InStep s → s.seq = .poll → s.engine.erdy = false →
    s.agenda = List.replicate k .access ++ rest →
    ∃ d, Sys2Proof.core.run k s = .next { s with
      agenda := rest
      bus := List.replicate k (.read (csrAddr s.cfg) (engineReadCsr s.engine)) ++ s.bus
      draws := d } := by
  induction k with
  | zero =>
    intro s _ _ _ ha
    exact ⟨s.draws, by rw [show rest = s.agenda from ha.symm]; rfl⟩
  | succ k ih =>
    intro s h hq hr ha
    have hpoll := h.step_poll hq ha
    simp only [hr, Bool.false_eq_true, if_false, ← hq] at hpoll
    obtain ⟨d, hrun⟩ := ih (h.step hpoll) hq hr rfl
    refine ⟨d, ?_⟩
    rw [run_succ k hpoll, List.replicate_succ', List.append_assoc]
    exact hrun

/-! ### From CFG to the engine's step -/

/-- R193 to R195: from CFG in the mode `single` the control word, the argument words and `k` polls that find RDY 0. -/
theorem InStep.run_to_poll (h : InStep s) (hq : s.seq = .cfg) (hm : s.cfg.csrWriteMode = .single) (k : Nat)
    (ha : s.agenda = List.replicate (1 + s.latch.ln.toNat + k) .access ++ rest) :
    ∃ e d, Sys2Proof.core.run (1 + s.latch.ln.toNat + k) s = .next { s with
        seq := .poll
        engine := e
        agenda := rest
        bus := List.replicate k (.read (csrAddr s.cfg) (latchedWord s)) ++ argumentAccesses s ++
          .write (csrAddr s.cfg) (latchedWord s) :: s.bus
        draws := d } ∧
      e.erdy = false := by
  have hagenda : s.agenda =
      .access :: (List.replicate s.latch.ln.toNat .access ++ (List.replicate k .access ++ rest)) := by
    rw [ha, List.replicate_add, List.replicate_add, List.append_assoc, List.append_assoc]
    rfl
  have hcfg := h.step_cfg hq hm hagenda
  have h1 := h.step hcfg
  obtain ⟨e, d, hargs, hr⟩ := h1.run_arguments rfl rfl
  have h2 := h1.run hargs
  obtain ⟨hcsr, -⟩ := h2.2.poll rfl
  obtain ⟨d', hpolls⟩ := h2.run_polls k rfl hr rfl
  have hread : engineReadCsr e = latchedWord s := engineReadCsr_of_not_ready hcsr hr
  simp only [hread] at hpolls
  rw [List.append_assoc]
  exact ⟨e, d', run_trans (run_trans (run_one hcfg) hargs) hpolls, hr⟩

/-- R41 item 3: the engine's step at POLL. -/
theorem InStep.step_engine (h : InStep s) (hq : s.seq = .poll) (hr : s.engine.erdy = false) {e1 e2 : Word}
    (ha : s.agenda = .engine e1 e2 :: rest) :
    Machine.step s = .next { s with
      agenda := rest
      engine := { s.engine with erdy := true, slot := .ready0, res1 := e1, res2 := e2 } } := by
  have hslot : s.engine.slot = .computing := by
    rcases (h.2.poll hq).2 with ⟨hslot, -⟩ | ⟨-, hr'⟩
    · exact hslot
    · simp [hr] at hr'
  rw [← engineFinish_computing hslot]
  exact ((stepPerformsTheMoveNext s rest h.1.cfg_wf).2.1 e1 e2 ha).1 h.2.clocked

/-! ### From the poll that finds RDY 1 to idle -/

/-- The RDATA reads of the declared results, newest first (R196). -/
def resultAccesses (s : State) : List BusAccess :=
  match s.latch.lr with
  | .one => [.read (rdataAddr s.cfg) s.engine.res1]
  | .two => [.read (rdataAddr s.cfg) s.engine.res2, .read (rdataAddr s.cfg) s.engine.res1]

/-- R1 after the results are read (R196). -/
def firstResult (s : State) : CellReg :=
  ⟨cellFromWord s.cfg.fmt s.engine.res1 s.latch.ls ((selected s).post1.value s.cfg.pi), true⟩

/-- R2 after the results are read (R196): a function with one result leaves it. -/
def secondResult (s : State) : CellReg :=
  match s.latch.lr with
  | .one => s.r2
  | .two => ⟨cellFromWord s.cfg.fmt s.engine.res2 s.latch.ls ((selected s).post2.value s.cfg.pi), true⟩

theorem InStep.countsMatch (h : InStep s) (hr : s.seq ≠ .idle) (hcsr : csrInForce s) :
    Machine.countsMatch s.cfg s.engine = true :=
  countsMatch_of_csrInForce (h.1.running hr).2 h.2.arities hcsr

/-- R196: from RD1 the declared result words are read. -/
theorem InStep.run_results (h : InStep s) (hq : s.seq = .rd1)
    (ha : s.agenda = List.replicate s.latch.lr.toNat .access ++ rest) :
    ∃ e d, Sys2Proof.core.run s.latch.lr.toNat s = .next { s with
        seq := .idle
        r1 := firstResult s
        r2 := secondResult s
        engine := e
        agenda := rest
        bus := resultAccesses s ++ s.bus
        draws := d } ∧
      e.csr = s.engine.csr := by
  have hr : s.seq ≠ .idle := by simp [hq]
  obtain ⟨hcsr, hslot, -⟩ := h.2.rd1 hq
  have hm := h.countsMatch hr hcsr
  have hnres := engineNres_of_csrInForce hcsr
  cases hn : s.latch.lr with
  | one =>
    rw [hn] at ha hnres
    have h1 := (h.1.step_access hr ha).trans (runCalc_rd1 hq h.2.clocked)
    simp only [engineReadData_only hm hslot hnres, hn] at h1
    simp only [secondResult, resultAccesses, hn]
    exact ⟨_, _, run_one h1, rfl⟩
  | two =>
    rw [hn] at ha hnres
    have h1 := (h.1.step_access hr ha).trans (runCalc_rd1 hq h.2.clocked)
    simp only [engineReadData_first_of_two hm hslot hnres, hn] at h1
    have h' := h.step h1
    obtain ⟨hcsr2, hslot2, -⟩ := h'.2.rd2 rfl
    have h2 := (h'.1.step_access nofun rfl).trans (runCalc_rd2 rfl h.2.clocked)
    simp only [engineReadData_second (h'.countsMatch nofun hcsr2) hslot2] at h2
    simp only [secondResult, resultAccesses, hn]
    exact ⟨_, _, run_two h1 h2, rfl⟩

/-- R195, R196: from POLL with RDY 1 one poll and the result words. -/
theorem InStep.run_from_ready (h : InStep s) (hq : s.seq = .poll) (hr : s.engine.erdy = true)
    (ha : s.agenda = List.replicate (1 + s.latch.lr.toNat) .access ++ rest) :
    ∃ e d, Sys2Proof.core.run (1 + s.latch.lr.toNat) s = .next { s with
        seq := .idle
        r1 := firstResult s
        r2 := secondResult s
        engine := e
        agenda := rest
        bus := resultAccesses s ++ .read (csrAddr s.cfg) (latchedWord s ||| 0x80000000) :: s.bus
        draws := d } ∧
      e.csr = s.engine.csr := by
  have hagenda : s.agenda = .access :: (List.replicate s.latch.lr.toNat .access ++ rest) := by
    rw [ha, List.replicate_add, List.append_assoc]
    rfl
  obtain ⟨hcsr, -⟩ := h.2.poll hq
  have hpoll := h.step_poll hq hagenda
  simp only [hr, if_true, engineReadCsr_of_ready hcsr hr] at hpoll
  obtain ⟨e, d, hresults, he⟩ := (h.step hpoll).run_results rfl rfl
  exact ⟨e, d, run_trans (run_one hpoll) hresults, he⟩

/-! ### The whole transaction -/

/-- R198: the accesses of a whole transaction, newest first, read from the oldest on. -/
theorem transaction_trace (na nr : Count) (k : Nat) (ctl arg1 arg2 poll last res1 res2 : BusAccess) :
    ((match nr with | .one => [res1] | .two => [res2, res1]) ++ last :: (List.replicate k poll ++
        (match na with | .one => [arg1] | .two => [arg2, arg1]) ++ [ctl])).reverse =
      [ctl, arg1] ++ (match na with | .one => [] | .two => [arg2]) ++ List.replicate k poll ++ [last] ++ [res1] ++
        (match nr with | .one => [] | .two => [res2]) := by
  cases na <;> cases nr <;> simp

/-- Settles O30: the acceptance, the accesses up to the polls that find RDY 0, the engine's step, and the accesses from
the poll that finds RDY 1 on. -/
theorem wholeTransactionCompletes : Obligations.WholeTransactionCompletes := by
  intro s k e1 e2 rest d w lw1 lw2 done hi hsync hq hw hm ha
  have h : InStep s := ⟨hi, hsync⟩
  have haccept := h.step_calc hq hw ha
  have h1 := h.step haccept
  obtain ⟨e, n, htopoll, hr⟩ := h1.run_to_poll rfl hm k rfl
  have h2 := h1.run htopoll
  obtain ⟨hcsr, -⟩ := h2.2.poll rfl
  have hengine := h2.step_engine rfl hr rfl
  have h3 := h2.step hengine
  obtain ⟨e', n', hfromready, he'⟩ := h3.run_from_ready rfl rfl rfl
  have h4 := h3.run hfromready
  obtain ⟨hrdy, hslot⟩ := engineIdle_iff.1 (h4.2.idle rfl)
  have hrun := run_trans (run_trans (run_trans (run_one haccept) htopoll) (run_one hengine)) hfromready
  refine ⟨_, hrun, rfl, rfl, rfl, rfl, rfl, rfl, rfl, rfl, rfl, rfl, he'.trans hcsr, hrdy, hslot, ?_⟩
  have hdone : done = w := csrWord_and_named ..
  rw [hdone]
  exact transaction_trace d.nargs d.nres k ..

end Sys2Proof.Machine
end

section
/-! PROOFS. The statements of 44_sequencer.md about the commands. -/

namespace Sys2Proof.Machine

variable {s : State}

/-! ### The conditions of R219, one after another -/

theorem whenIdle_of_idle (hq : s.seq = .idle) (k : Host.Outcome State Fault Refusal) : whenIdle s k = k :=
  if_pos hq

theorem whenCreated_of_created (hw : s.fsel.written = true) (k : Host.Outcome State Fault Refusal) :
    whenCreated s k = k :=
  if_pos hw

/-- R214 `no_operation`: before CREATE a command at `idle` that needs an operation is refused. -/
theorem whenIdle_whenCreated_of_uncreated (hq : s.seq = .idle) (hw : s.fsel.written = false)
    (k : Host.Outcome State Fault Refusal) : whenIdle s (whenCreated s k) = .refused .noOperation := by
  rw [whenIdle_of_idle hq, whenCreated, hw]
  rfl

/-- R219: on an operation at `idle` a command goes on to its own conditions. -/
theorem whenIdle_whenCreated (hq : s.seq = .idle) (hw : s.fsel.written = true)
    (k : Host.Outcome State Fault Refusal) : whenIdle s (whenCreated s k) = k := by
  rw [whenIdle_of_idle hq, whenCreated_of_created hw]

/-! ### CREATE and the setters -/

/-- Settles O36: the code of a function names it. -/
theorem createBuildsTheOperation : Obligations.CreateBuildsTheOperation := by
  intro s f hq
  refine ⟨Config.freeCell s.draws, Config.freeCell (s.draws + 1), ?_⟩
  rw [execCommand, createOp, whenIdle_of_idle hq, ofCode?_code]
  cases h : (s.cfg.desc.of f).args with
  | one k1 => simp [presetArg2, h, zeroCell]
  | two k1 k2 p => cases p <;> simp [presetArg2, h, zeroCell]

/-- R117, R118: a value whose scaled value lies below the allowed range gives the raw of its lower bound. -/
theorem encodeValue_raw_of_lt {c : Cfg} {k : Kind} {v : Value}
    (hle : (c.kinds.of k).allowedLo ≤ (c.kinds.of k).allowedHi)
    (h : v * pow2 (-lookupExp (c.kinds.of k).table.ranges v) < (c.kinds.of k).allowedLo) :
    (encodeValue c k v).raw = satW c.fmt (rnd ((c.kinds.of k).allowedLo * pow2 c.fmt.fracBits)) := by
  rw [encodeValue_raw, clamp_of_le h.le hle]

/-- R117, R118: a value whose scaled value lies above the allowed range gives the raw of its upper bound. -/
theorem encodeValue_raw_of_gt {c : Cfg} {k : Kind} {v : Value}
    (hle : (c.kinds.of k).allowedLo ≤ (c.kinds.of k).allowedHi)
    (h : (c.kinds.of k).allowedHi < v * pow2 (-lookupExp (c.kinds.of k).table.ranges v)) :
    (encodeValue c k v).raw = satW c.fmt (rnd ((c.kinds.of k).allowedHi * pow2 c.fmt.fracBits)) := by
  rw [encodeValue_raw, clamp_of_ge h.le hle]

/-- Settles O38: the encoder clamps and saturates. -/
theorem setArg1Encodes : Obligations.SetArg1Encodes := by
  intro s v
  refine ⟨fun hr => execCommand_of_running hr _, fun hq hw => whenIdle_whenCreated_of_uncreated hq hw _,
    fun hq hw => ?_⟩
  exact ⟨_, setArg1Op_idle v hq hw, rfl, rfl, encodeValue_raw_mem .., encodeValue_raw_of_lt, encodeValue_raw_of_gt⟩

/-- Settles O39. -/
theorem setArg2AndSetArgFollowArity : Obligations.SetArg2AndSetArgFollowArity := by
  intro s v
  refine ⟨fun hr => ⟨execCommand_of_running hr _, execCommand_of_running hr _⟩,
    fun hq hw => ⟨whenIdle_whenCreated_of_uncreated hq hw _, whenIdle_whenCreated_of_uncreated hq hw _⟩,
    fun hq hw => ⟨fun k1 hargs => ⟨?_, ?_⟩, fun k1 k2 p hargs => ⟨?_, setArg2Op_idle v hq hw hargs⟩⟩⟩
  · rw [execCommand, setArg2Op, whenIdle_whenCreated hq hw, selected, hargs]
  · rw [execCommand, setArgOp, whenIdle_whenCreated hq hw, selected, hargs]
  · rw [execCommand, setArgOp, whenIdle_whenCreated hq hw, selected, hargs]

/-! ### The results -/

theorem getResOp_of_written (hq : s.seq = .idle) (hw : s.r1.written = true) :
    getResOp s = .next { s with reply := some (.result s.r1.cell (value s.cfg.fmt s.r1.cell)) } := by
  rw [getResOp, whenIdle_of_idle hq, if_pos hw]

theorem getResOp_of_unwritten (hq : s.seq = .idle) (hw : s.r1.written = false) : getResOp s = .refused .noResult := by
  rw [getResOp, whenIdle_of_idle hq, hw]
  rfl

section GetRes

variable {rest : List Move} (hwf : s.cfg.wf = true) (hq : s.seq = .idle) (ha : s.agenda = .command .getRes :: rest)

include hwf hq ha

/-- R199: a GETRES next on the port returns R1, if it is written. -/
theorem step_getRes_of_written (hw : s.r1.written = true) :
    step s = .next { s with agenda := rest, reply := some (.result s.r1.cell (value s.cfg.fmt s.r1.cell)) } :=
  ((stepPerformsTheMoveNext s rest hwf).1 .getRes nofun ha).trans
    (getResOp_of_written (s := { s with agenda := rest }) hq hw)

/-- R199: a GETRES next on the port is refused, if R1 is not written. -/
theorem step_getRes_of_unwritten (hw : s.r1.written = false) : step s = .refused .noResult :=
  ((stepPerformsTheMoveNext s rest hwf).1 .getRes nofun ha).trans
    (getResOp_of_unwritten (s := { s with agenda := rest }) hq hw)

end GetRes

/-- Settles O41: a GETRES that returns R1 leaves it, so the next one returns it again. -/
theorem getResReturnsTheResult : Obligations.GetResReturnsTheResult := by
  intro s rest hwf
  refine ⟨fun hr ha => commandsAreRefusedWhileBusy s _ rest hwf hr ha,
    fun hq hw ha => step_getRes_of_unwritten hwf hq ha hw, fun hq hw ha => ?_⟩
  refine ⟨_, step_getRes_of_written hwf hq ha hw, rfl, fun later hrest => ?_⟩
  exact step_getRes_of_written (by exact hwf) (by exact hq) (by exact hrest) (by exact hw)

/-- Settles O42. -/
theorem getRes2AndGetScaleReturn : Obligations.GetRes2AndGetScaleReturn := by
  intro s
  refine ⟨fun hr => ⟨execCommand_of_running hr _, execCommand_of_running hr _⟩, fun hq =>
    ⟨fun hw => whenIdle_whenCreated_of_uncreated hq hw _, fun hw hn => ?_, fun hw hn => ⟨fun h2 => ?_, fun h2 => ?_⟩,
      fun h1 => ?_, fun h1 => ?_⟩⟩
  · rw [execCommand, getRes2Op, whenIdle_whenCreated hq hw, selected, hn]
  · rw [execCommand, getRes2Op, whenIdle_whenCreated hq hw, selected, hn, h2]
    rfl
  · rw [execCommand, getRes2Op, whenIdle_whenCreated hq hw, selected, hn]
    exact if_pos h2
  · rw [execCommand, getScaleOp, whenIdle_of_idle hq, h1]
    rfl
  · rw [execCommand, getScaleOp, whenIdle_of_idle hq, if_pos h1]

end Sys2Proof.Machine
end

section
/-! PROOFS. SETVEC: the two cells of a vector, normalised or not, keep the coordinates recoverable and in range. -/

namespace Sys2Proof.Machine

variable {s : State} {c : Cfg} {x y v : Value}

/-! ### The two cells -/

/-- R128: the soft scale of the cells of a vector: the divisor of a vector that is normalised, and else 1. -/
def vecSoft (c : Cfg) (x y : Value) : Value :=
  if 1 ≤ |x| ∨ 1 ≤ |y| then max |x| |y| * c.vecMargin else 1

/-- R128: the cell of a coordinate `v` with the soft scale `d`. -/
def softCell (c : Cfg) (k : Kind) (v d : Value) : Cell := { encodeValue c k (v / d) with soft := d }

theorem softCell_one (c : Cfg) (k : Kind) (v : Value) : softCell c k v 1 = encodeValue c k v := by
  rw [softCell, div_one]
  rfl

theorem vecSoft_of_large (h : 1 ≤ |x| ∨ 1 ≤ |y|) : vecSoft c x y = max |x| |y| * c.vecMargin :=
  if_pos h

theorem vecSoft_of_small (h : ¬ (1 ≤ |x| ∨ 1 ≤ |y|)) : vecSoft c x y = 1 :=
  if_neg h

theorem vec2_eq (c : Cfg) (k : Kind) (x y : Value) :
    vec2 c k x y = (softCell c k x (vecSoft c x y), softCell c k y (vecSoft c x y)) := by
  by_cases h : 1 ≤ |x| ∨ 1 ≤ |y|
  · rw [vec2, if_pos h, vecSoft_of_large h]
    rfl
  · rw [vec2, if_neg h, vecSoft_of_small h, softCell_one, softCell_one]

theorem vecSoft_comm (c : Cfg) (x y : Value) : vecSoft c x y = vecSoft c y x := by
  simp only [vecSoft, max_comm, or_comm]

/-- R128: a normalised coordinate has at most the magnitude 1 / VEC_MARGIN. -/
theorem abs_div_vecSoft_of_large (hm : 1 < c.vecMargin) (h : 1 ≤ |x| ∨ 1 ≤ |y|) :
    0 < vecSoft c x y ∧ |x / vecSoft c x y| ≤ 1 / c.vecMargin := by
  have hmax : 0 < max |x| |y| := zero_lt_one.trans_le (le_max_iff.2 h)
  have hmargin : 0 < c.vecMargin := zero_lt_one.trans hm
  have hpos : 0 < max |x| |y| * c.vecMargin := mul_pos hmax hmargin
  rw [vecSoft_of_large h]
  refine ⟨hpos, ?_⟩
  rw [abs_div, abs_of_pos hpos, div_le_div_iff₀ hpos hmargin, one_mul]
  exact mul_le_mul_of_nonneg_right (le_max_left _ _) hmargin.le

/-- R128, R129: every coordinate that is encoded has at most the magnitude 1. -/
theorem abs_div_vecSoft_le_one (hm : 1 < c.vecMargin) (x y : Value) :
    0 < vecSoft c x y ∧ |x / vecSoft c x y| ≤ 1 := by
  by_cases h : 1 ≤ |x| ∨ 1 ≤ |y|
  · obtain ⟨hpos, hle⟩ := abs_div_vecSoft_of_large hm h
    exact ⟨hpos, hle.trans ((div_le_one (zero_lt_one.trans hm)).2 hm.le)⟩
  · rw [vecSoft_of_small h, div_one]
    exact ⟨zero_lt_one, (not_le.1 (not_or.1 h).1).le⟩

/-! ### The UNIT kind -/

theorem rawMin_eq (f : Fmt) : rawMin f = -2 ^ f.fracBits := by
  cases f <;> rfl

theorem rawMax_eq (f : Fmt) : rawMax f = 2 ^ f.fracBits - 1 := by
  cases f <;> rfl

/-- R116, R118: of a value that is at most a unit beyond the largest raw, rounding and saturation err by at most a unit. -/
theorem abs_satW_rnd_sub_le (f : Fmt) {q : Value} (hq : |q| ≤ 2 ^ f.fracBits) :
    |(satW f (rnd q) : Value) - q| ≤ 1 := by
  obtain ⟨hround, -⟩ := roundingIsToNearestAwayFromZero q
  obtain ⟨hlo, hhi⟩ := abs_le.1 hround
  obtain ⟨hmin, hmax⟩ := abs_le.1 hq
  rw [abs_le]
  unfold satW
  rw [rawMin_eq, rawMax_eq]
  split
  · rename_i h
    have : (rnd q : Value) + 1 ≤ -2 ^ f.fracBits := by exact_mod_cast h
    constructor <;> linarith
  · split
    · rename_i h
      have : (2 ^ f.fracBits : Value) ≤ rnd q := by exact_mod_cast Int.le_of_sub_one_lt h
      push_cast
      constructor <;> linarith
    · constructor <;> linarith

/-- R120: the fixed-point value of a cell of scale 0. -/
theorem fx_of_scale_zero (f : Fmt) {z : Cell} (h : z.scale = 0) : fx f z = z.raw / 2 ^ f.fracBits := by
  rw [fx, h, pow2_eq_zpow, zpow_neg, zpow_natCast]
  simp [pow2, div_eq_mul_inv]

section Unit

variable (hc : c.kinds = .default)

include hc

/-- R117: a value of magnitude at most 1 is rounded and saturated. -/
theorem encodeValue_unit_raw_of_abs_le (hv : |v| ≤ 1) :
    (encodeValue c .unit v).raw = satW c.fmt (rnd (v * 2 ^ c.fmt.fracBits)) := by
  obtain ⟨hlo, hhi⟩ := abs_le.1 hv
  have hscaled : v * pow2 (-0) = v := by simp [pow2_eq_zpow]
  have hclamp : clamp v (KindTable.default.of .unit).allowedLo (KindTable.default.of .unit).allowedHi = v :=
    clamp_of_mem hlo hhi
  rw [encodeValue_raw, hc, lookupExp_defaultUnit, hscaled, hclamp, pow2_ofNat]

/-- R129: the fixed-point value of a coordinate is within a unit of raw of it. -/
theorem abs_fx_unit_sub_le (hv : |v| ≤ 1) :
    |fx c.fmt (encodeValue c .unit v) - v| ≤ 1 / 2 ^ c.fmt.fracBits := by
  have hpos : (0 : Value) < 2 ^ c.fmt.fracBits := by positivity
  have hq : |v * 2 ^ c.fmt.fracBits| ≤ 2 ^ c.fmt.fracBits := by
    rw [abs_mul, abs_of_pos hpos]
    exact mul_le_of_le_one_left hpos.le hv
  have herr := abs_satW_rnd_sub_le c.fmt hq
  rw [fx_of_scale_zero c.fmt (encodeValue_unit_scale hc v), encodeValue_unit_raw_of_abs_le hc hv, le_div_iff₀ hpos,
    ← abs_of_pos hpos, ← abs_mul, abs_of_pos hpos, sub_mul, div_mul_cancel₀ _ hpos.ne']
  exact herr

/-- R129: every fixed-point value of the UNIT kind has at most the magnitude 1. -/
theorem abs_fx_unit_le_one (v : Value) : |fx c.fmt (encodeValue c .unit v)| ≤ 1 := by
  have hpos : (0 : Value) < 2 ^ c.fmt.fracBits := by positivity
  obtain ⟨hmin, hmax⟩ := encodeValue_raw_mem c .unit v
  rw [rawMin_eq] at hmin
  rw [rawMax_eq] at hmax
  rw [fx_of_scale_zero c.fmt (encodeValue_unit_scale hc v), abs_div, abs_of_pos hpos, div_le_one hpos, abs_le]
  exact ⟨by exact_mod_cast hmin, by exact_mod_cast hmax.trans (Int.sub_le_self _ zero_le_one)⟩

/-- R129: with the default margin a normalised coordinate has a fixed-point value of magnitude below 1. -/
theorem abs_fx_unit_lt_one (hv : |v| ≤ 1 / (23 / 20)) : |fx c.fmt (encodeValue c .unit v)| < 1 := by
  have herr := abs_fx_unit_sub_le hc (hv.trans (by norm_num))
  have hunit : (1 : Value) / 2 ^ c.fmt.fracBits ≤ 1 / 2 ^ 15 := by
    cases c.fmt <;> norm_num [Fmt.fracBits]
  calc |fx c.fmt (encodeValue c .unit v)|
      ≤ |fx c.fmt (encodeValue c .unit v) - v| + |v| := by
        simpa using abs_add_le (fx c.fmt (encodeValue c .unit v) - v) v
    _ ≤ 1 / 2 ^ 15 + 1 / (23 / 20) := add_le_add (herr.trans hunit) hv
    _ < 1 := by norm_num

/-- R129: the coordinate is recovered from its cell up to a unit of raw times the soft scale. -/
theorem abs_value_softCell_sub_le {d : Value} (hd : 0 < d) (hv : |v / d| ≤ 1) :
    |value c.fmt (softCell c .unit v d) - v| ≤ d / 2 ^ c.fmt.fracBits := by
  have herr := abs_fx_unit_sub_le hc hv
  calc |value c.fmt (softCell c .unit v d) - v|
      = |(fx c.fmt (encodeValue c .unit (v / d)) - v / d) * d| := by
        rw [sub_mul, div_mul_cancel₀ _ hd.ne']
        rfl
    _ = |fx c.fmt (encodeValue c .unit (v / d)) - v / d| * d := by rw [abs_mul, abs_of_pos hd]
    _ ≤ 1 / 2 ^ c.fmt.fracBits * d := mul_le_mul_of_nonneg_right herr hd.le
    _ = d / 2 ^ c.fmt.fracBits := by ring

end Unit

/-! ### The command -/

/-- R185: PHASE and MOD take a vector. -/
theorem takesVector_iff {f : Func} : takesVector f = true ↔ f = .phase ∨ f = .mod := by
  cases f <;> decide

theorem setVecOp_of_vector (hq : s.seq = .idle) (hw : s.fsel.written = true)
    (hf : s.fsel.func = .phase ∨ s.fsel.func = .mod) (x y : Value) :
    setVecOp x y s = .next { s with
      a1 := ⟨softCell s.cfg (selected s).kind1 x (vecSoft s.cfg x y), true⟩
      a2 := ⟨softCell s.cfg (selected s).kind1 y (vecSoft s.cfg x y), true⟩ } := by
  rw [setVecOp, whenIdle_whenCreated hq hw, if_pos (takesVector_iff.2 hf), vec2_eq]

/-- Settles O40: each cell is that of a coordinate divided by the soft scale, which leaves it a magnitude of at most 1. -/
theorem setVecNormalises : Obligations.SetVecNormalises := by
  intro s x y hq hw
  refine ⟨fun hp hmod => ?_, fun hf => ⟨fun h => ?_, fun hx hy => ?_⟩, fun hf hc hm hk => ?_⟩
  · have hnot : ¬ takesVector s.fsel.func = true := by simp [takesVector_iff, hp, hmod]
    rw [execCommand, setVecOp, whenIdle_whenCreated hq hw, if_neg hnot]
  · rw [execCommand, setVecOp_of_vector hq hw hf, vecSoft_of_large h]
    rfl
  · rw [execCommand, setVecOp_of_vector hq hw hf, vecSoft_of_small (by simp [hx, hy]), softCell_one, softCell_one]
    rfl
  · have hcells := setVecOp_of_vector hq hw hf x y
    rw [show (selected s).kind1 = .unit from hk] at hcells
    obtain ⟨hd, hx⟩ := abs_div_vecSoft_le_one hm x y
    obtain ⟨-, hy⟩ := abs_div_vecSoft_le_one hm y x
    rw [vecSoft_comm] at hy
    refine ⟨_, _, vecSoft s.cfg x y, hcells, rfl, rfl, rfl, encodeValue_unit_scale hc _, encodeValue_unit_scale hc _,
      abs_fx_unit_le_one hc _, abs_fx_unit_le_one hc _, fun h hmargin => ?_, abs_value_softCell_sub_le hc hd hx,
      abs_value_softCell_sub_le hc hd hy⟩
    obtain ⟨-, hx'⟩ := abs_div_vecSoft_of_large hm h
    obtain ⟨-, hy'⟩ := abs_div_vecSoft_of_large hm h.symm
    rw [hmargin] at hx' hy'
    rw [vecSoft_comm] at hy'
    exact ⟨abs_fx_unit_lt_one hc hx', abs_fx_unit_lt_one hc hy'⟩

end Sys2Proof.Machine
end

section
/-! PROOFS. The statements of 60_exceptions.md: a legal configuration rules out faults and `bad_config`, one that breaks
a constraint is refused before anything else, and without the engine's step the sequencer polls for ever. -/

namespace Sys2Proof.Machine

variable {s : State}

/-! ### Outcomes without a fault and without `bad_config` -/

/-- An outcome that is a next state, or a refusal for another reason than the configuration (R210, R213): whatever the
configuration, every operation answers so. -/
def Orderly (o : Host.Outcome State Fault Refusal) : Prop := (∀ r, o ≠ .fault r) ∧ o ≠ .refused .badConfig

theorem orderly_next (t : State) : Orderly (.next t) := ⟨nofun, nofun⟩

theorem orderly_refused {r : Refusal} (h : r ≠ .badConfig) : Orderly (.refused r) :=
  ⟨nofun, fun hr => h (by injection hr)⟩

theorem orderly_ite {p : Prop} [Decidable p] {o₁ o₂ : Host.Outcome State Fault Refusal} (h₁ : Orderly o₁)
    (h₂ : Orderly o₂) : Orderly (if p then o₁ else o₂) := by
  split
  · exact h₁
  · exact h₂

/-- R180. -/
theorem orderly_whenIdle {k : Host.Outcome State Fault Refusal} (h : Orderly k) : Orderly (whenIdle s k) :=
  orderly_ite h (orderly_refused nofun)

/-- R214 `no_operation`. -/
theorem orderly_whenCreated {k : Host.Outcome State Fault Refusal} (h : Orderly k) : Orderly (whenCreated s k) :=
  orderly_ite h (orderly_refused nofun)

/-- R214: none of the commands tests the configuration. -/
theorem orderly_execCommand (c : Command) (s : State) : Orderly (execCommand c s) := by
  cases c with
  | create code =>
    refine orderly_whenIdle ?_
    cases Func.ofCode? code with
    | none => exact orderly_refused nofun
    | some f => exact orderly_next _
  | setArg1 v => exact orderly_whenIdle (orderly_whenCreated (orderly_next _))
  | setArg2 v =>
    refine orderly_whenIdle (orderly_whenCreated ?_)
    cases (selected s).args with
    | one k1 => exact orderly_refused nofun
    | two k1 k2 p => exact orderly_next _
  | setArg v =>
    refine orderly_whenIdle (orderly_whenCreated ?_)
    cases (selected s).args with
    | one k1 => exact orderly_next _
    | two k1 k2 p => exact orderly_refused nofun
  | setVec x y => exact orderly_whenIdle (orderly_whenCreated (orderly_ite (orderly_next _) (orderly_refused nofun)))
  | getRes => exact orderly_whenIdle (orderly_ite (orderly_next _) (orderly_refused nofun))
  | getRes2 =>
    refine orderly_whenIdle (orderly_whenCreated ?_)
    cases (selected s).nres with
    | one => exact orderly_refused nofun
    | two => exact orderly_ite (orderly_next _) (orderly_refused nofun)
  | getScale => exact orderly_whenIdle (orderly_ite (orderly_next _) (orderly_refused nofun))
  -- CALC, the constructor left, is refused as busy here.
  | _ => exact orderly_refused nofun

/-- R186, R214: an acceptance is refused as `no_operation` or `clock` only. -/
theorem orderly_acceptCalc (f : Func) (s : State) : Orderly (acceptCalc f s) :=
  orderly_ite (orderly_ite (orderly_next _) (orderly_refused nofun)) (orderly_refused nofun)

/-- R57, R193: the control write issues no access but of CSR. -/
theorem orderly_writeControl (w : Word) (s : State) : Orderly (writeControl w s) := by
  rw [writeControl_eq]
  cases s.cfg.csrWriteMode with
  | single => exact orderly_next _
  | perField =>
    cases s.cfgHeld with
    | none => exact orderly_next _
    | some r => cases s.cfgField.after <;> exact orderly_next _

/-- R57: at every SEQ the bus access of a CALC is one that its register allows. -/
theorem orderly_runCalc (f : Func) (x : Fields) (s : State) : Orderly (runCalc f x s) := by
  unfold runCalc
  cases s.seq with
  | idle => exact orderly_acceptCalc f s
  | cfg => exact orderly_writeControl _ s
  | wr1 => exact writeArg1_eq s ▸ orderly_next _
  | wr2 => exact writeArg2_eq s ▸ orderly_next _
  | poll => exact pollReady_eq s ▸ orderly_next _
  | rd1 => exact readResult1_eq f s ▸ orderly_next _
  | rd2 => exact readResult2_eq f s ▸ orderly_next _

theorem orderly_perform {a : Action} (ha : a ≠ .refuse .badConfig) (s : State) : Orderly (perform a s) := by
  cases a with
  | refuse r => exact orderly_refused fun hr => ha (congrArg _ hr)
  | run i =>
    rw [perform, exec_eq_runCalc]
    exact orderly_runCalc ..
  | command c => exact orderly_execCommand ..
  | engine | clock | reset | wait => exact orderly_next _

/-! ### `bad_config` -/

theorem runFetched_ne_badConfig (s : State) : runFetched s ≠ .refuse .badConfig := by
  rcases runFetched_cases s with ⟨i, h⟩ | h <;> rw [h] <;> nofun

theorem sequencerTurn_ne_badConfig (s : State) : sequencerTurn s ≠ .refuse .badConfig := by
  rcases sequencerTurn_cases s with ⟨h, -⟩ | ⟨h, -⟩ <;> rw [h]
  · nofun
  · exact runFetched_ne_badConfig s

/-- R214: with a legal configuration nothing is refused for it. -/
theorem nextAction_ne_badConfig (hw : s.cfg.wf = true) : nextAction s ≠ .refuse .badConfig := by
  rw [nextAction, if_pos hw]
  split
  · exact sequencerTurn_ne_badConfig s
  · exact sequencerTurn_ne_badConfig s
  · split
    · exact runFetched_ne_badConfig s
    · nofun
  all_goals nofun

theorem orderly_step (hw : s.cfg.wf = true) : Orderly (step s) := orderly_perform (nextAction_ne_badConfig hw) s

/-- R214: the configuration is tested before anything else (log 19). -/
theorem step_of_not_wf (hw : ¬ s.cfg.wf = true) : step s = .refused .badConfig := by
  rw [step, nextAction, if_neg hw, perform]

theorem step_badConfig_iff : step s = .refused .badConfig ↔ ¬ s.cfg.wf = true :=
  ⟨fun h hw => (orderly_step hw).2 h, step_of_not_wf⟩

/-- R7, R112: how the kinds of a configuration break a constraint. -/
theorem kindSpec_not_wf_iff (k : KindSpec) :
    ¬ k.wf = true ↔ k.allowedHi < k.allowedLo ∨ k.table.ranges = [] ∨
      ¬ (k.table.ranges.map Range.exp).Pairwise (· < ·) ∨
      ∃ r ∈ k.table.ranges, r.exp < 0 ∨ 7 < r.exp ∨ r.hi < r.lo := by
  simp only [k.wf_iff, not_and_or, not_forall, not_le, not_not, exists_prop, ne_eq]

/-- Settles O13: the negation of what a legal configuration is. -/
theorem badConfigurationIsRefused : Obligations.BadConfigurationIsRefused := by
  intro s
  simp only [step_badConfig_iff, s.cfg.wf_iff, not_and_or, not_forall, not_lt, kindSpec_not_wf_iff, ne_eq]

/-- Settles O14: a legal configuration rules a fault out, and any other is refused. -/
theorem noStepFaults : Obligations.NoStepFaults := by
  intro s r
  by_cases hw : s.cfg.wf = true
  · exact (orderly_step hw).1 r
  · rw [step_of_not_wf hw]
    nofun

/-! ### The hang -/

/-- R216: the states of the hang. At POLL, RDY is 0, the peripheral is clocked, and only the sequencer is to move. -/
structure State.Hung (s : State) : Prop where
  inv : s.Inv
  at_poll : s.seq = .poll
  clocked : s.clock = true
  not_ready : s.engine.erdy = false
  turns : ∀ m ∈ s.agenda, m = .access

/-- With turns of the sequencer alone on the agenda, or nothing, the next move is the sequencer's. -/
theorem State.Hung.agenda_cases (h : s.Hung) : s.agenda = [] ∨ ∃ rest, s.agenda = .access :: rest := by
  cases ha : s.agenda with
  | nil => exact .inl rfl
  | cons m rest => exact .inr ⟨rest, by rw [h.turns m (by simp [ha])]⟩

/-- R195, R216: the step is one CSR read, which finds RDY 0. -/
theorem State.Hung.step_eq (h : s.Hung) :
    Machine.step s = .next { s with
      agenda := s.agenda.tail
      bus := .read (csrAddr s.cfg) (engineReadCsr s.engine) :: s.bus
      draws := s.draws + 1 } := by
  rw [step_turn h.inv.cfg_wf (by simp [h.at_poll]) h.agenda_cases h.inv.fetch_eq, exec_eq_runCalc,
    runCalc_poll (s := takeMove s) h.at_poll h.clocked]
  simp [h.not_ready, ← h.at_poll, takeMove]

/-- R216: a step of the hang is in the hang again, the results and the engine unchanged. -/
theorem State.Hung.step (h : s.Hung) :
    ∃ t, Machine.step s = .next t ∧ t.Hung ∧ t.r1 = s.r1 ∧ t.r2 = s.r2 ∧ t.engine = s.engine :=
  ⟨_, h.step_eq, ⟨everyStepKeepsTheInvariant s _ h.inv h.step_eq, h.at_poll, h.clocked, h.not_ready,
    fun m hm => h.turns m (List.mem_of_mem_tail hm)⟩, rfl, rfl, rfl⟩

theorem State.Hung.run (n : Nat) : ∀ {s : State}, s.Hung →
    ∃ t, Sys2Proof.core.run n s = .next t ∧ t.Hung ∧ t.r1 = s.r1 ∧ t.r2 = s.r2 ∧ t.engine = s.engine := by
  induction n with
  | zero => exact fun {s} h => ⟨s, rfl, h, rfl, rfl, rfl⟩
  | succ n ih =>
    intro s h
    obtain ⟨u, hstep, hu, hr1, hr2, hengine⟩ := h.step
    obtain ⟨t, hrun, ht, hr1', hr2', hengine'⟩ := ih hu
    exact ⟨t, (run_succ n hstep).trans hrun, ht, hr1'.trans hr1, hr2'.trans hr2, hengine'.trans hengine⟩

/-- Settles O31, by induction on the number of steps: the hang is closed under the step. -/
theorem withoutTheEngineThePollNeverEnds : Obligations.WithoutTheEngineThePollNeverEnds := by
  intro s n hinv hq hclock hrdy hturns
  obtain ⟨t, hrun, ht, hregs⟩ := State.Hung.run n ⟨hinv, hq, hclock, hrdy, hturns⟩
  exact ⟨t, hrun, ht.at_poll, hregs⟩

end Sys2Proof.Machine
end

section
/-! PROOFS. The statements of 70_reset_and_hazards.md about an unclocked transaction and about the first command. -/

namespace Sys2Proof.Machine

variable {s t : State}

/-! ### A transaction with the clock off (R236) -/

theorem clockedEngine_off (hc : s.clock = false) (e : Engine) : clockedEngine s e = Config.freeEngine s.draws := by
  simp [clockedEngine, hc]

theorem clockedRead_off (hc : s.clock = false) (x : Word × Engine) :
    clockedRead s x = (Config.freeWord s.draws, Config.freeEngine s.draws) := by
  simp [clockedRead, hc]

/-- R193: the control write is refused in no state. -/
theorem exists_writeControl_next (w : Word) (s : State) : ∃ t, writeControl w s = .next t := by
  rw [writeControl_eq]
  cases s.cfg.csrWriteMode with
  | single => exact ⟨_, rfl⟩
  | perField =>
    cases s.cfgHeld with
    | none => exact ⟨_, rfl⟩
    | some r => cases s.cfgField.after <;> exact ⟨_, rfl⟩

/-- R31: once accepted, a CALC is refused at no SEQ; neither its operands nor the clock are tested again. -/
theorem exists_runCalc_next (hr : s.seq ≠ .idle) (f : Func) (x : Fields) : ∃ t, runCalc f x s = .next t := by
  unfold runCalc
  cases hq : s.seq with
  | idle => exact absurd hq hr
  | cfg => exact exists_writeControl_next _ s
  | wr1 => exact ⟨_, writeArg1_eq s⟩
  | wr2 => exact ⟨_, writeArg2_eq s⟩
  | poll => exact ⟨_, pollReady_eq s⟩
  | rd1 => exact ⟨_, readResult1_eq f s⟩
  | rd2 => exact ⟨_, readResult2_eq f s⟩

variable {f : Func} {x : Fields}

theorem writeControl_latch {w : Word} (h : writeControl w s = .next t) : t.latch = s.latch := by
  rcases writeControl_next h with ⟨-, rfl⟩ | ⟨-, -, rfl⟩ | ⟨r, -, -, u, rfl, ⟨g, -, rfl⟩ | ⟨-, rfl⟩⟩ <;> rfl

/-- R30: the latches are loaded at the acceptance and nowhere else. -/
theorem runCalc_latch (hr : s.seq ≠ .idle) (h : runCalc f x s = .next t) : t.latch = s.latch := by
  rcases runCalc_next h with ⟨hq, -⟩ | ⟨-, h⟩ | ⟨-, rfl⟩ | ⟨-, rfl⟩ | ⟨-, y, -, rfl⟩ | ⟨-, y, -, rfl⟩ | ⟨-, y, -, rfl⟩
  · exact absurd hq hr
  · exact writeControl_latch h
  all_goals rfl

theorem writeControl_engine_of_unclocked {w : Word} (hc : s.clock = false) (h : writeControl w s = .next t) :
    t.engine = Config.freeEngine s.draws := by
  rcases writeControl_next h with ⟨-, rfl⟩ | ⟨-, -, rfl⟩ | ⟨r, -, -, u, rfl, ⟨g, -, rfl⟩ | ⟨-, rfl⟩⟩
  · exact clockedEngine_off hc _
  · exact congrArg Prod.snd (clockedRead_off hc _)
  all_goals exact clockedEngine_off hc _

/-- R236: each step of a CALC that an unclocked peripheral lets through is a bus access, and the access leaves the engine
free; the acceptance, which makes none, is refused (log 10). -/
theorem runCalc_engine_of_unclocked (hc : s.clock = false) (h : runCalc f x s = .next t) :
    t.engine = Config.freeEngine s.draws := by
  rcases runCalc_next h with ⟨-, h⟩ | ⟨-, h⟩ | ⟨-, rfl⟩ | ⟨-, rfl⟩ | ⟨-, y, rfl, rfl⟩ | ⟨-, y, rfl, rfl⟩ |
    ⟨-, y, rfl, rfl⟩
  · obtain ⟨-, -, -, hon, -⟩ := acceptCalc_next h
    simp [hc] at hon
  · exact writeControl_engine_of_unclocked hc h
  · exact clockedEngine_off hc _
  · exact clockedEngine_off hc _
  all_goals exact congrArg Prod.snd (clockedRead_off hc _)

/-- Settles O25: the bus access is made, and whatever a CALC keeps with the clock on it keeps with the clock off. -/
theorem unclockedTransactionGoesOn : Obligations.UnclockedTransactionGoesOn := by
  intro i s hr hc
  obtain ⟨t, h⟩ := exists_runCalc_next hr i.func i.fields
  obtain ⟨-, hfsel, ha1, ha2, -⟩ := runCalc_frame h
  exact ⟨t, (exec_eq_runCalc i s).trans h, runCalc_engine_of_unclocked hc h, hfsel, ha1, ha2, runCalc_latch hr h⟩

/-! ### The first command (R234) -/

/-- R234: at `idle` with nothing written a command other than CREATE and CALC fails the first of its conditions. -/
theorem execCommand_of_nothing_written {c : Command} (hq : s.seq = .idle) (hf : s.fsel.written = false)
    (h1 : s.a1.written = false) (hr1 : s.r1.written = false) (hcalc : c ≠ .calc) (hcreate : ∀ code, c ≠ .create code) :
    execCommand c s = .refused (if c = .getRes then .noResult else .noOperation) := by
  cases c with
  | create code => exact absurd rfl (hcreate code)
  | setArg1 | setArg2 | setArg | setVec | getRes2 => exact whenIdle_whenCreated_of_uncreated hq hf _
  | getRes => exact getResOp_of_unwritten hq hr1
  | getScale =>
    obtain ⟨-, hidle⟩ := getRes2AndGetScaleReturn s
    obtain ⟨-, -, -, hscale, -⟩ := hidle hq
    exact hscale h1
  -- CALC, the constructor left.
  | _ => exact absurd rfl hcalc

/-- R186, R214: CALC before CREATE finds a control word to run, and FSEL not written. -/
theorem step_calc_of_uncreated {rest : List Move} (hwf : s.cfg.wf = true) (hq : s.seq = .idle)
    (hf : s.fsel.written = false) (ha : s.agenda = .command .calc :: rest) : step s = .refused .noOperation := by
  rw [step_calc hwf hq ha ((fetch_of_idle hq).trans (decode_selectedWord s))]
  exact (calcIsRefusedInOrder _ { s with agenda := rest } hq).1 (.inl hf)

/-- Settles O44: CALC is refused when it would be accepted, every other command by its own test. -/
theorem firstCommandMustBeCreate : Obligations.FirstCommandMustBeCreate := by
  intro s c rest hwf hq hf h1 hr1 ha hcreate
  by_cases hcalc : c = .calc
  · subst hcalc
    exact step_calc_of_uncreated hwf hq hf ha
  · rw [(stepPerformsTheMoveNext s rest hwf).1 c hcalc ha]
    exact execCommand_of_nothing_written (s := { s with agenda := rest }) hq hf h1 hr1 hcalc hcreate

end Sys2Proof.Machine
end
